-- ==== Sys2Proof/Word.lean ====
section
/-! DEFINITION. The two word types of the block (00_scope.md section 4: 8-bit registers and bus data, 16-bit views,
PC, SP and addresses). Everything is unsigned (00_scope.md section 5). -/

namespace Sys2Proof

/-- `u8`: a register of RegisterFile, one byte on the bus, one cell of a buffer. -/
abbrev Byte := BitVec 8

/-- `u16`: a 16-bit view, PC, SP, a bus address, the `IMM` field. -/
abbrev Word := BitVec 16

/-- `T[31:0]` of rule R101: one transaction written as a word. -/
abbrev TWord := BitVec 32

end Sys2Proof
end

