-- ==== Sys2Proof/Machine/Memory.lean ====
section
/-! DEFINITION. Sparse byte memory: the one representation of every buffer of the block (`ROM`, `xram`, `wram`,
`hram`; rules R27 to R30, R84), as a list of cells in one canonical form. An index is a natural number, as the index
arithmetic of 00_scope.md section 5 is. -/

namespace Sys2Proof.Machine

/-- A buffer's contents: (index, byte) pairs. Canonical form: `Memory.wf`. -/
abbrev Memory := List Host.Cell

/-- What an index with no entry reads as. DESIGN CHOICE (log entry 6): the spec gives no reset contents for any RAM
(R43); every contents is reached by listing cells, so this value is fixed by the model only for `State.reset`. -/
def Memory.unlisted : Byte := 0x00#8

/-- The byte at index `i`. -/
def Memory.read : Memory → Nat → Byte
  | [], _ => Memory.unlisted
  | (a, b) :: rest, i => if a = i then b else Memory.read rest i

/-- Store `v` at index `i`, keeping the canonical form: storing what an unlisted index reads as removes the entry. -/
def Memory.write : Memory → Nat → Byte → Memory
  | [], i, v => if v = Memory.unlisted then [] else [(i, v)]
  | (a, b) :: rest, i, v =>
    if i < a then
      if v = Memory.unlisted then (a, b) :: rest else (i, v) :: (a, b) :: rest
    else if i = a then
      if v = Memory.unlisted then rest else (i, v) :: rest
    else (a, b) :: Memory.write rest i v

/-- Every index is at least `lo`, the indices rise strictly, and no entry holds `Memory.unlisted`. -/
def Memory.wfFrom : Nat → Memory → Bool
  | _, [] => true
  | lo, (a, b) :: rest => decide (lo ≤ a) && b != Memory.unlisted && Memory.wfFrom (a + 1) rest

/-- The canonical form: equal contents are equal data. -/
def Memory.wf (m : Memory) : Bool := Memory.wfFrom 0 m

/-- Every entry lies inside a buffer of `len` bytes. -/
def Memory.below (len : Nat) : Memory → Bool
  | [] => true
  | (a, _) :: rest => decide (a < len) && Memory.below len rest

/-- A canonical buffer of `len` bytes. -/
def Memory.fits (len : Nat) (m : Memory) : Bool := Memory.wf m && Memory.below len m

/-- `InRange(i, len)` of rule R72. -/
def inRange (i len : Nat) : Bool := decide (i < len)

/-- Store into a buffer of `len` bytes: an index outside it is discarded (R72). -/
def Memory.store (len : Nat) (m : Memory) (i : Nat) (v : Byte) : Memory :=
  if inRange i len then Memory.write m i v else m

end Sys2Proof.Machine
end

