-- ==== Sys2Proof/Config.lean ====
section
/-! DEFINITION. What is fixed when the block is constructed (R4, R5; 00_scope.md section 4): the variant, the ROM, the
sizes, and the spec's OPEN parameters. A configuration is plain data; the state carries it unchanged (log entry 1), so a
statement about every state is a statement about every configuration. -/

namespace Sys2Proof

/-- R5: the closed set of bank-controller protocols. -/
inductive Variant where
  | mbc1 | mbc2 | mbc3 | mbc5
  deriving DecidableEq, Repr

/-- R118: the strap `VARIANT[1:0]`. -/
def Variant.strap : Variant → BitVec 2
  | .mbc1 => 0#2
  | .mbc2 => 1#2
  | .mbc3 => 2#2
  | .mbc5 => 3#2

/-- R118: all four strap values are legal. -/
def Variant.ofStrap (b : BitVec 2) : Variant :=
  if b = 0#2 then .mbc1 else if b = 1#2 then .mbc2 else if b = 2#2 then .mbc3 else .mbc5

/-- R36: the two values of `bank_mode`. -/
inductive BankMode where
  | rom | ram
  deriving DecidableEq, Repr

/-- R115: the two pieces of context outside the word that decide what a BUS write word means. -/
structure Context where
  variant  : Variant
  bankMode : BankMode
  deriving DecidableEq, Repr

/-- The parameters of 00_scope.md section 4 (`IO_OVERRIDE` is absent: log entry 12). The four images are sparse, as
every buffer is. -/
structure Config where
  /-- `VARIANT` -/
  variant       : Variant
  /-- `ROM_LEN` -/
  romLen        : Nat
  /-- `ROM` -/
  rom           : Machine.Memory
  /-- `XRAM_SIZE` -/
  xramSize      : Nat
  /-- `XRAM_INIT` -/
  xramInit      : Machine.Memory
  /-- `WRAM_INIT` -/
  wramInit      : Machine.Memory
  /-- `HRAM_INIT` -/
  hramInit      : Machine.Memory
  /-- `IE_RESET` -/
  ieReset       : Byte
  /-- `IME_RESET` -/
  imeReset      : Bool
  /-- `POWERUP_WRITES` -/
  powerupWrites : List (Word × Byte)
  deriving DecidableEq, Repr

/-- 00_scope.md section 4: work RAM is 8192 bytes. -/
def wramSize : Nat := 8192

/-- 00_scope.md section 4: scratch RAM is 127 bytes. -/
def hramSize : Nat := 127

/-- Each image is canonical and lies inside its buffer. -/
def Config.wf (c : Config) : Bool :=
  Machine.Memory.fits c.romLen c.rom && Machine.Memory.fits c.xramSize c.xramInit &&
    Machine.Memory.fits wramSize c.wramInit && Machine.Memory.fits hramSize c.hramInit

/-- The configuration `State.reset` is made with. DESIGN CHOICE (log entry 5): the spec leaves every parameter to the
cartridge loader; `IE_RESET`, `IME_RESET` and the empty table are its recommended values. No ROM image is invented. -/
def Config.standard : Config where
  variant       := .mbc1
  romLen        := 0
  rom           := []
  xramSize      := 0x8000
  xramInit      := []
  wramInit      := []
  hramInit      := []
  ieReset       := 0x00#8
  imeReset      := false
  powerupWrites := []

/-- The decode context of the block right after reset: the strap, and `bank_mode` = Rom (R42). -/
def Context.atReset : Context := ⟨Config.standard.variant, .rom⟩

end Sys2Proof
end

