-- ==== Sys2Proof/Syntax.lean ====
section
/-! DEFINITION. The operations of the block: one constructor per row of spec/opcode_table.json, in the table's order
(R120), and the selectors their operands name (R105 to R107). A bus operation carries its whole 16-bit address, as the
rules' operand lines do; which addresses belong to which row is `Instr.wf`. -/

namespace Sys2Proof

/-- R20, R105: the eight 8-bit registers. -/
inductive Reg8 where
  | a | b | c | d | e | f | h | l
  deriving DecidableEq, Repr

/-- R21, R106: the four paired views, and SP and PC. -/
inductive View16 where
  | af | bc | de | hl | sp | pc
  deriving DecidableEq, Repr

/-- R26, R107: the three latches. -/
inductive Latch where
  | halted | stopped | ime
  deriving DecidableEq, Repr

/-- The 50 operations. -/
inductive Instr where
  -- the register port (40_regfile_ops.md)
  | rd8 (r : Reg8)
  | wr8 (r : Reg8) (v : Byte)
  | rd16 (p : View16)
  | wr16 (p : View16) (v : Word)
  | bump
  | inchl
  | dechl
  | ftest (m : Byte)
  | fset (m : Byte)
  | fclr (m : Byte)
  | fput (m : Byte) (b : Bool)
  | rdctl (c : Latch)
  | wrctl (c : Latch) (b : Bool)
  -- bus reads (41_bus_router.md section 1)
  | rdRom0 (addr : Word)
  | rdRomx (addr : Word)
  | rdGap8 (addr : Word)
  | rdXram (addr : Word)
  | rdWram (addr : Word)
  | rdIe
  | rdHram (addr : Word)
  | rdIo (addr : Word)
  | rdGapfe (addr : Word)
  | rdEcho (addr : Word)
  -- control writes (42_mbc.md)
  | wrMbc1Ramen (addr : Word) (v : Byte)
  | wrMbc1Romb (addr : Word) (v : Byte)
  | wrMbc1Rombhi (addr : Word) (v : Byte)
  | wrMbc1Ramb (addr : Word) (v : Byte)
  | wrMbc1Mode (addr : Word) (v : Byte)
  | wrMbc2Ramtog (addr : Word) (v : Byte)
  | wrMbc2Nop0 (addr : Word) (v : Byte)
  | wrMbc2Romb (addr : Word) (v : Byte)
  | wrMbc2Nop2 (addr : Word) (v : Byte)
  | wrMbc2Nop4 (addr : Word) (v : Byte)
  | wrMbc3Ramen (addr : Word) (v : Byte)
  | wrMbc3Romb (addr : Word) (v : Byte)
  | wrMbc3Ramb (addr : Word) (v : Byte)
  | wrMbc3Rtclatch (addr : Word) (v : Byte)
  | wrMbc5Ramen (addr : Word) (v : Byte)
  | wrMbc5Romblo (addr : Word) (v : Byte)
  | wrMbc5Rombhi (addr : Word) (v : Byte)
  | wrMbc5Ramb (addr : Word) (v : Byte)
  | wrMbc5Nop6 (addr : Word) (v : Byte)
  -- bus writes outside the control range (41_bus_router.md section 2)
  | wrGap8 (addr : Word) (v : Byte)
  | wrXram (addr : Word) (v : Byte)
  | wrWram (addr : Word) (v : Byte)
  | wrIe (v : Byte)
  | wrHram (addr : Word) (v : Byte)
  | wrIo (addr : Word) (v : Byte)
  | wrGapfe (addr : Word) (v : Byte)
  | wrEcho (addr : Word) (v : Byte)
  deriving DecidableEq, Repr

end Sys2Proof
end

