-- ==== Sys2Proof/WellFormed.lean ====
section
/-! DEFINITION. Which terms of `Instr` spell an operation: each bus operation's address lies in the exact range its row
ends up covering (R120: `addr_lo`, `addr_hi`, `addr_bit8`; R61, R109 to R111). The register operations' operands are
legal by their types (R105 to R108). Which rows an instance has, and in which mode, is `Instr.inContext` (R115). -/

namespace Sys2Proof

/-- `addr` lies in the range `lo`–`hi`, both ends included. -/
def inWindow (lo hi : Nat) (addr : Word) : Bool := decide (lo ≤ addr.toNat) && decide (addr.toNat ≤ hi)

/-- The address check of the instruction's row. -/
def Instr.wf : Instr → Bool
  | .rd8 _ | .wr8 _ _ | .rd16 _ | .wr16 _ _ | .bump | .inchl | .dechl => true
  | .ftest _ | .fset _ | .fclr _ | .fput _ _ | .rdctl _ | .wrctl _ _ => true
  | .rdRom0 a => inWindow 0x0000 0x3FFF a
  | .rdRomx a => inWindow 0x4000 0x7FFF a
  | .rdGap8 a => inWindow 0x8000 0x9FFF a
  | .rdXram a => inWindow 0xA000 0xBFFF a
  | .rdWram a => inWindow 0xC000 0xDFFF a
  | .rdIe => true
  | .rdHram a => inWindow 0xFF80 0xFFFE a
  | .rdIo a => inWindow 0xFF00 0xFF7F a
  | .rdGapfe a => inWindow 0xFE00 0xFEFF a
  | .rdEcho a => inWindow 0xE000 0xFDFF a
  | .wrMbc1Ramen a _ => inWindow 0x0000 0x1FFF a
  | .wrMbc1Romb a _ => inWindow 0x2000 0x3FFF a
  | .wrMbc1Rombhi a _ => inWindow 0x4000 0x5FFF a
  | .wrMbc1Ramb a _ => inWindow 0x4000 0x5FFF a
  | .wrMbc1Mode a _ => inWindow 0x6000 0x7FFF a
  | .wrMbc2Ramtog a _ => inWindow 0x0000 0x1FFF a && !a.getLsbD 8
  | .wrMbc2Nop0 a _ => inWindow 0x0000 0x1FFF a && a.getLsbD 8
  | .wrMbc2Romb a _ => inWindow 0x2000 0x3FFF a && a.getLsbD 8
  | .wrMbc2Nop2 a _ => inWindow 0x2000 0x3FFF a && !a.getLsbD 8
  | .wrMbc2Nop4 a _ => inWindow 0x4000 0x7FFF a
  | .wrMbc3Ramen a _ => inWindow 0x0000 0x1FFF a
  | .wrMbc3Romb a _ => inWindow 0x2000 0x3FFF a
  | .wrMbc3Ramb a _ => inWindow 0x4000 0x5FFF a
  | .wrMbc3Rtclatch a _ => inWindow 0x6000 0x7FFF a
  | .wrMbc5Ramen a _ => inWindow 0x0000 0x1FFF a
  | .wrMbc5Romblo a _ => inWindow 0x2000 0x2FFF a
  | .wrMbc5Rombhi a _ => inWindow 0x3000 0x3FFF a
  | .wrMbc5Ramb a _ => inWindow 0x4000 0x5FFF a
  | .wrMbc5Nop6 a _ => inWindow 0x6000 0x7FFF a
  | .wrGap8 a _ => inWindow 0x8000 0x9FFF a
  | .wrXram a _ => inWindow 0xA000 0xBFFF a
  | .wrWram a _ => inWindow 0xC000 0xDFFF a
  | .wrIe _ => true
  | .wrHram a _ => inWindow 0xFF80 0xFFFE a
  | .wrIo a _ => inWindow 0xFF00 0xFF7F a
  | .wrGapfe a _ => inWindow 0xFE00 0xFEFF a
  | .wrEcho a _ => inWindow 0xE000 0xFDFF a

/-- R115, R109: the row belongs to the instance's variant and, for the two MBC1 rows that name it, to the current
`bank_mode`. Every other row has no context. -/
def Instr.inContext (ctx : Context) : Instr → Bool
  | .wrMbc1Ramen _ _ | .wrMbc1Romb _ _ | .wrMbc1Mode _ _ => decide (ctx.variant = .mbc1)
  | .wrMbc1Rombhi _ _ => decide (ctx.variant = .mbc1) && decide (ctx.bankMode = .rom)
  | .wrMbc1Ramb _ _ => decide (ctx.variant = .mbc1) && decide (ctx.bankMode = .ram)
  | .wrMbc2Ramtog _ _ | .wrMbc2Nop0 _ _ | .wrMbc2Romb _ _ | .wrMbc2Nop2 _ _ | .wrMbc2Nop4 _ _ =>
    decide (ctx.variant = .mbc2)
  | .wrMbc3Ramen _ _ | .wrMbc3Romb _ _ | .wrMbc3Ramb _ _ | .wrMbc3Rtclatch _ _ => decide (ctx.variant = .mbc3)
  | .wrMbc5Ramen _ _ | .wrMbc5Romblo _ _ | .wrMbc5Rombhi _ _ | .wrMbc5Ramb _ _ | .wrMbc5Nop6 _ _ =>
    decide (ctx.variant = .mbc5)
  | .rd8 _ | .wr8 _ _ | .rd16 _ | .wr16 _ _ | .bump | .inchl | .dechl => true
  | .ftest _ | .fset _ | .fclr _ | .fput _ _ | .rdctl _ | .wrctl _ _ => true
  | .rdRom0 _ | .rdRomx _ | .rdGap8 _ | .rdXram _ | .rdWram _ | .rdIe | .rdHram _ | .rdIo _ | .rdGapfe _
  | .rdEcho _ => true
  | .wrGap8 _ _ | .wrXram _ _ | .wrWram _ _ | .wrIe _ | .wrHram _ _ | .wrIo _ _ | .wrGapfe _ _ | .wrEcho _ _ => true

end Sys2Proof
end

