-- ==== Sys2Proof/Decode.lean ====
section
/-! DEFINITION. The transaction word (30_encoding.md): its two formats, the total decoder, the encoder written from the
same layout, and the opcode table R120 describes. Decoding goes through the port's signals (R100): word to port, port to
operation. The word and its codes are the spec's own notation (92_eei_decisions.md D2); nothing fetches it from the bus
address space (R101). -/

namespace Sys2Proof

/-- Why a word spells no operation (R113). -/
inductive DecodeError where
  /-- a reserved bit is set: `T[30:25]` in format BUS, `T[30]` or `T[19:16]` in format REG -/
  | reservedBits
  /-- `WR` = 0 with `DATA` != 0 -/
  | readData
  /-- an `OP` outside R104's table -/
  | unassignedOp
  /-- a `SEL` outside the operation's range -/
  | badSelector
  /-- a non-zero bit in a field the operation requires to be 0 -/
  | unusedField
  deriving DecidableEq, Repr

/-- R100: the input signals of the two ports. -/
inductive Port where
  /-- `BUS_WR`, `BUS_ADDR[15:0]`, `BUS_WDATA[7:0]` -/
  | bus (wr : Bool) (addr : Word) (data : Byte)
  /-- `REG_OP[5:0]`, `REG_SEL[3:0]`, `REG_WDATA[15:0]` -/
  | reg (op : BitVec 6) (sel : BitVec 4) (imm : Word)
  deriving DecidableEq, Repr

/-! ### Selectors -/

/-- R105. -/
def Reg8.code : Reg8 → BitVec 4
  | .a => 0#4 | .b => 1#4 | .c => 2#4 | .d => 3#4 | .e => 4#4 | .f => 5#4 | .h => 6#4 | .l => 7#4

/-- R105: `SEL` values 8 to 15 are reserved. -/
def Reg8.ofCode (sel : BitVec 4) : Option Reg8 :=
  match sel.toNat with
  | 0 => some .a | 1 => some .b | 2 => some .c | 3 => some .d
  | 4 => some .e | 5 => some .f | 6 => some .h | 7 => some .l
  | _ => none

/-- R106. -/
def View16.code : View16 → BitVec 4
  | .af => 0#4 | .bc => 1#4 | .de => 2#4 | .hl => 3#4 | .sp => 4#4 | .pc => 5#4

/-- R106: `SEL` values 6 to 15 are reserved. -/
def View16.ofCode (sel : BitVec 4) : Option View16 :=
  match sel.toNat with
  | 0 => some .af | 1 => some .bc | 2 => some .de | 3 => some .hl | 4 => some .sp | 5 => some .pc
  | _ => none

/-- R107. -/
def Latch.code : Latch → BitVec 4
  | .halted => 0#4 | .stopped => 1#4 | .ime => 2#4

/-- R107: `SEL` values 3 to 15 are reserved. -/
def Latch.ofCode (sel : BitVec 4) : Option Latch :=
  match sel.toNat with
  | 0 => some .halted | 1 => some .stopped | 2 => some .ime
  | _ => none

/-! ### Word to port (R101 to R103) -/

/-- R102: `T[31]` = 0. -/
def splitBus (t : TWord) : Except DecodeError Port :=
  if t.extractLsb' 25 6 ≠ 0#6 then .error .reservedBits
  else if t.getLsbD 24 = false ∧ t.extractLsb' 0 8 ≠ 0#8 then .error .readData
  else .ok (.bus (t.getLsbD 24) (t.extractLsb' 8 16) (t.extractLsb' 0 8))

/-- R103: `T[31]` = 1. -/
def splitReg (t : TWord) : Except DecodeError Port :=
  if t.getLsbD 30 then .error .reservedBits
  else if t.extractLsb' 16 4 ≠ 0#4 then .error .reservedBits
  else .ok (.reg (t.extractLsb' 24 6) (t.extractLsb' 20 4) (t.extractLsb' 0 16))

/-- R101: bit 31 alone tells the format. -/
def splitWord (t : TWord) : Except DecodeError Port :=
  if t.getLsbD 31 then splitReg t else splitBus t

/-! ### Port to operation -/

/-- R61 and the encoding lines of R171 to R178: a read decodes by address alone. -/
def decodeRead (addr : Word) : Instr :=
  if addr.extractLsb' 14 2 = 0#2 then .rdRom0 addr
  else if addr.extractLsb' 14 2 = 1#2 then .rdRomx addr
  else if addr.extractLsb' 13 3 = 4#3 then .rdGap8 addr
  else if addr.extractLsb' 13 3 = 5#3 then .rdXram addr
  else if addr.extractLsb' 13 3 = 6#3 then .rdWram addr
  else if addr = 0xFFFF#16 then .rdIe
  else if addr.extractLsb' 7 9 = 0x1FF#9 then .rdHram addr
  else if addr.extractLsb' 7 9 = 0x1FE#9 then .rdIo addr
  else if addr.extractLsb' 8 8 = 0xFE#8 then .rdGapfe addr
  else .rdEcho addr

/-- R109, column MBC1. -/
def decodeMbc1 (mode : BankMode) (addr : Word) (v : Byte) : Instr :=
  if addr.extractLsb' 13 2 = 0#2 then .wrMbc1Ramen addr v
  else if addr.extractLsb' 13 2 = 1#2 then .wrMbc1Romb addr v
  else if addr.extractLsb' 13 2 = 2#2 then
    (match mode with
    | .rom => .wrMbc1Rombhi addr v
    | .ram => .wrMbc1Ramb addr v)
  else .wrMbc1Mode addr v

/-- R109, column MBC2; R110: address bit 8. -/
def decodeMbc2 (addr : Word) (v : Byte) : Instr :=
  if addr.extractLsb' 13 2 = 0#2 then
    (if addr.getLsbD 8 then .wrMbc2Nop0 addr v else .wrMbc2Ramtog addr v)
  else if addr.extractLsb' 13 2 = 1#2 then
    (if addr.getLsbD 8 then .wrMbc2Romb addr v else .wrMbc2Nop2 addr v)
  else .wrMbc2Nop4 addr v

/-- R109, column MBC3. -/
def decodeMbc3 (addr : Word) (v : Byte) : Instr :=
  if addr.extractLsb' 13 2 = 0#2 then .wrMbc3Ramen addr v
  else if addr.extractLsb' 13 2 = 1#2 then .wrMbc3Romb addr v
  else if addr.extractLsb' 13 2 = 2#2 then .wrMbc3Ramb addr v
  else .wrMbc3Rtclatch addr v

/-- R109, column MBC5; R111: address bit 12. -/
def decodeMbc5 (addr : Word) (v : Byte) : Instr :=
  if addr.extractLsb' 13 2 = 0#2 then .wrMbc5Ramen addr v
  else if addr.extractLsb' 13 2 = 1#2 then
    (if addr.getLsbD 12 then .wrMbc5Rombhi addr v else .wrMbc5Romblo addr v)
  else if addr.extractLsb' 13 2 = 2#2 then .wrMbc5Ramb addr v
  else .wrMbc5Nop6 addr v

/-- R109: a control write (`ADDR[15]` = 0) decodes by the variant. -/
def decodeControl (ctx : Context) (addr : Word) (v : Byte) : Instr :=
  match ctx.variant with
  | .mbc1 => decodeMbc1 ctx.bankMode addr v
  | .mbc2 => decodeMbc2 addr v
  | .mbc3 => decodeMbc3 addr v
  | .mbc5 => decodeMbc5 addr v

/-- R61, R109 and the encoding lines of R181 to R187. -/
def decodeWrite (ctx : Context) (addr : Word) (v : Byte) : Instr :=
  if addr.getLsbD 15 = false then decodeControl ctx addr v
  else if addr.extractLsb' 13 3 = 4#3 then .wrGap8 addr v
  else if addr.extractLsb' 13 3 = 5#3 then .wrXram addr v
  else if addr.extractLsb' 13 3 = 6#3 then .wrWram addr v
  else if addr = 0xFFFF#16 then .wrIe v
  else if addr.extractLsb' 7 9 = 0x1FF#9 then .wrHram addr v
  else if addr.extractLsb' 7 9 = 0x1FE#9 then .wrIo addr v
  else if addr.extractLsb' 8 8 = 0xFE#8 then .wrGapfe addr v
  else .wrEcho addr v

/-- The operation, if the fields it does not use are 0 (R104). -/
def whenClear (unused : Bool) (i : Instr) : Except DecodeError Instr :=
  if unused then .ok i else .error .unusedField

/-- The operation on the selected operand, if `SEL` names one and the unused fields are 0. -/
def onSelector {α : Type} (sel : Option α) (unused : Bool) (mk : α → Instr) : Except DecodeError Instr :=
  match sel with
  | none => .error .badSelector
  | some x => whenClear unused (mk x)

/-- `IMM[15:8]` = 0: the operand is the byte `IMM[7:0]`. -/
def immIsByte (imm : Word) : Bool := imm.extractLsb' 8 8 == 0#8

/-- R104, with the selectors of R105 to R107. -/
def decodeReg (op : BitVec 6) (sel : BitVec 4) (imm : Word) : Except DecodeError Instr :=
  match op.toNat with
  | 0x00 => onSelector (Reg8.ofCode sel) (imm == 0#16) .rd8
  | 0x01 => onSelector (Reg8.ofCode sel) (immIsByte imm) (fun r => .wr8 r (imm.extractLsb' 0 8))
  | 0x02 => onSelector (View16.ofCode sel) (imm == 0#16) .rd16
  | 0x03 => onSelector (View16.ofCode sel) true (fun p => .wr16 p imm)
  | 0x04 => whenClear (sel == 0#4 && imm == 0#16) .bump
  | 0x05 => whenClear (sel == 0#4 && imm == 0#16) .inchl
  | 0x06 => whenClear (sel == 0#4 && imm == 0#16) .dechl
  | 0x08 => whenClear (sel == 0#4 && immIsByte imm) (.ftest (imm.extractLsb' 0 8))
  | 0x09 => whenClear (sel == 0#4 && immIsByte imm) (.fset (imm.extractLsb' 0 8))
  | 0x0A => whenClear (sel == 0#4 && immIsByte imm) (.fclr (imm.extractLsb' 0 8))
  | 0x0B => whenClear (sel.extractLsb' 1 3 == 0#3 && immIsByte imm) (.fput (imm.extractLsb' 0 8) (sel.getLsbD 0))
  | 0x0C => onSelector (Latch.ofCode sel) (imm == 0#16) .rdctl
  | 0x0D => onSelector (Latch.ofCode sel) (imm.extractLsb' 1 15 == 0#15) (fun c => .wrctl c (imm.getLsbD 0))
  | _ => .error .unassignedOp

/-- The operation a port's signals ask for. -/
def decodePort (ctx : Context) : Port → Except DecodeError Instr
  | .bus false addr _ => .ok (decodeRead addr)
  | .bus true addr v => .ok (decodeWrite ctx addr v)
  | .reg op sel imm => decodeReg op sel imm

/-- The decoder: total on every word and every context; a word that spells no operation is rejected by name. -/
def decode (ctx : Context) (t : TWord) : Except DecodeError Instr :=
  match splitWord t with
  | .error e => .error e
  | .ok p => decodePort ctx p

/-- `T[31:0]` from a number: `w`'s low `nbits` bits, every bit above them 0. -/
def tableWord (nbits w : Nat) : TWord := BitVec.ofNat 32 (w % 2 ^ nbits)

/-- The decoder on a word written as the opcode table numbers its bits, in the context of the block right after reset
(log entry 7: the table gives several rows the same word and tells them apart by context alone). -/
def decodeTableWord (nbits w : Nat) : Option Instr :=
  match decode Context.atReset (tableWord nbits w) with
  | .ok i => some i
  | .error _ => none

/-! ### The encoder -/

/-- R102, R103: the port's signals laid out as a word: `ADDR << 8` and `0x01000000 | (ADDR << 8) | DATA` in format BUS,
`0x80000000 | (OP << 24) | (SEL << 20) | IMM` in format REG. -/
def Port.word : Port → TWord
  | .bus false addr data => (addr.setWidth 32 <<< 8) ||| data.setWidth 32
  | .bus true addr data => 0x01000000#32 ||| (addr.setWidth 32 <<< 8) ||| data.setWidth 32
  | .reg op sel imm => 0x80000000#32 ||| (op.setWidth 32 <<< 24) ||| (sel.setWidth 32 <<< 20) ||| imm.setWidth 32

/-- A byte operand in `IMM`, `IMM[15:8]` = 0. -/
def byteImm (v : Byte) : Word := v.setWidth 16

/-- A bool operand in bit 0 of `SEL`. -/
def boolSel (b : Bool) : BitVec 4 := if b then 1#4 else 0#4

/-- A bool operand in bit 0 of `IMM`. -/
def boolImm (b : Bool) : Word := if b then 1#16 else 0#16

/-- The port's signals for an operation: R102 for the bus, R104 to R108 for the registers. -/
def Instr.port : Instr → Port
  | .rd8 r => .reg 0x00#6 r.code 0#16
  | .wr8 r v => .reg 0x01#6 r.code (byteImm v)
  | .rd16 p => .reg 0x02#6 p.code 0#16
  | .wr16 p v => .reg 0x03#6 p.code v
  | .bump => .reg 0x04#6 0#4 0#16
  | .inchl => .reg 0x05#6 0#4 0#16
  | .dechl => .reg 0x06#6 0#4 0#16
  | .ftest m => .reg 0x08#6 0#4 (byteImm m)
  | .fset m => .reg 0x09#6 0#4 (byteImm m)
  | .fclr m => .reg 0x0A#6 0#4 (byteImm m)
  | .fput m b => .reg 0x0B#6 (boolSel b) (byteImm m)
  | .rdctl c => .reg 0x0C#6 c.code 0#16
  | .wrctl c b => .reg 0x0D#6 c.code (boolImm b)
  | .rdIe => .bus false 0xFFFF#16 0#8
  | .rdRom0 a | .rdRomx a | .rdGap8 a | .rdXram a | .rdWram a => .bus false a 0#8
  | .rdHram a | .rdIo a | .rdGapfe a | .rdEcho a => .bus false a 0#8
  | .wrMbc1Ramen a v | .wrMbc1Romb a v | .wrMbc1Rombhi a v | .wrMbc1Ramb a v | .wrMbc1Mode a v => .bus true a v
  | .wrMbc2Ramtog a v | .wrMbc2Nop0 a v | .wrMbc2Romb a v | .wrMbc2Nop2 a v | .wrMbc2Nop4 a v => .bus true a v
  | .wrMbc3Ramen a v | .wrMbc3Romb a v | .wrMbc3Ramb a v | .wrMbc3Rtclatch a v => .bus true a v
  | .wrMbc5Ramen a v | .wrMbc5Romblo a v | .wrMbc5Rombhi a v | .wrMbc5Ramb a v | .wrMbc5Nop6 a v => .bus true a v
  | .wrIe v => .bus true 0xFFFF#16 v
  | .wrGap8 a v | .wrXram a v | .wrWram a v | .wrHram a v | .wrIo a v | .wrGapfe a v | .wrEcho a v => .bus true a v

/-- The word of an operation. -/
def encode (i : Instr) : TWord := i.port.word

/-! ### The opcode table (R120) -/

/-- One row of spec/opcode_table.json: `match`, `mask`, `context`, and the largest legal value of the selector in bits
22:20 where the row's `constraints` limit it. -/
structure OpcodeRow where
  mnemonic : String
  pattern  : TWord
  mask     : TWord
  variant  : Option Variant
  bankMode : Option BankMode
  selMax   : Option Nat
  deriving DecidableEq, Repr

/-- The 13 rows of the register port (R104). -/
def registerRows : List OpcodeRow :=
  [ ⟨"RD8", 0x80000000#32, 0xFF8FFFFF#32, none, none, none⟩,
    ⟨"WR8", 0x81000000#32, 0xFF8FFF00#32, none, none, none⟩,
    ⟨"RD16", 0x82000000#32, 0xFF8FFFFF#32, none, none, some 5⟩,
    ⟨"WR16", 0x83000000#32, 0xFF8F0000#32, none, none, some 5⟩,
    ⟨"BUMP", 0x84000000#32, 0xFFFFFFFF#32, none, none, none⟩,
    ⟨"INCHL", 0x85000000#32, 0xFFFFFFFF#32, none, none, none⟩,
    ⟨"DECHL", 0x86000000#32, 0xFFFFFFFF#32, none, none, none⟩,
    ⟨"FTEST", 0x88000000#32, 0xFFFFFF00#32, none, none, none⟩,
    ⟨"FSET", 0x89000000#32, 0xFFFFFF00#32, none, none, none⟩,
    ⟨"FCLR", 0x8A000000#32, 0xFFFFFF00#32, none, none, none⟩,
    ⟨"FPUT", 0x8B000000#32, 0xFFEFFF00#32, none, none, none⟩,
    ⟨"RDCTL", 0x8C000000#32, 0xFFCFFFFF#32, none, none, some 2⟩,
    ⟨"WRCTL", 0x8D000000#32, 0xFFCFFFFE#32, none, none, some 2⟩ ]

/-- The 10 rows of the bus read (R61, R170). -/
def readRows : List OpcodeRow :=
  [ ⟨"RD.ROM0", 0x00000000#32, 0xFFC000FF#32, none, none, none⟩,
    ⟨"RD.ROMX", 0x00400000#32, 0xFFC000FF#32, none, none, none⟩,
    ⟨"RD.GAP8", 0x00800000#32, 0xFFE000FF#32, none, none, none⟩,
    ⟨"RD.XRAM", 0x00A00000#32, 0xFFE000FF#32, none, none, none⟩,
    ⟨"RD.WRAM", 0x00C00000#32, 0xFFE000FF#32, none, none, none⟩,
    ⟨"RD.IE", 0x00FFFF00#32, 0xFFFFFFFF#32, none, none, none⟩,
    ⟨"RD.HRAM", 0x00FF8000#32, 0xFFFF80FF#32, none, none, none⟩,
    ⟨"RD.IO", 0x00FF0000#32, 0xFFFF80FF#32, none, none, none⟩,
    ⟨"RD.GAPFE", 0x00FE0000#32, 0xFFFF00FF#32, none, none, none⟩,
    ⟨"RD.ECHO", 0x00E00000#32, 0xFFE000FF#32, none, none, none⟩ ]

/-- The control writes of MBC1 and MBC2 (R109). -/
def mbc12Rows : List OpcodeRow :=
  [ ⟨"WR.MBC1.RAMEN", 0x01000000#32, 0xFFE00000#32, some .mbc1, none, none⟩,
    ⟨"WR.MBC1.ROMB", 0x01200000#32, 0xFFE00000#32, some .mbc1, none, none⟩,
    ⟨"WR.MBC1.ROMBHI", 0x01400000#32, 0xFFE00000#32, some .mbc1, some .rom, none⟩,
    ⟨"WR.MBC1.RAMB", 0x01400000#32, 0xFFE00000#32, some .mbc1, some .ram, none⟩,
    ⟨"WR.MBC1.MODE", 0x01600000#32, 0xFFE00000#32, some .mbc1, none, none⟩,
    ⟨"WR.MBC2.RAMTOG", 0x01000000#32, 0xFFE10000#32, some .mbc2, none, none⟩,
    ⟨"WR.MBC2.NOP0", 0x01010000#32, 0xFFE10000#32, some .mbc2, none, none⟩,
    ⟨"WR.MBC2.ROMB", 0x01210000#32, 0xFFE10000#32, some .mbc2, none, none⟩,
    ⟨"WR.MBC2.NOP2", 0x01200000#32, 0xFFE10000#32, some .mbc2, none, none⟩,
    ⟨"WR.MBC2.NOP4", 0x01400000#32, 0xFFC00000#32, some .mbc2, none, none⟩ ]

/-- The control writes of MBC3 and MBC5 (R109). -/
def mbc35Rows : List OpcodeRow :=
  [ ⟨"WR.MBC3.RAMEN", 0x01000000#32, 0xFFE00000#32, some .mbc3, none, none⟩,
    ⟨"WR.MBC3.ROMB", 0x01200000#32, 0xFFE00000#32, some .mbc3, none, none⟩,
    ⟨"WR.MBC3.RAMB", 0x01400000#32, 0xFFE00000#32, some .mbc3, none, none⟩,
    ⟨"WR.MBC3.RTCLATCH", 0x01600000#32, 0xFFE00000#32, some .mbc3, none, none⟩,
    ⟨"WR.MBC5.RAMEN", 0x01000000#32, 0xFFE00000#32, some .mbc5, none, none⟩,
    ⟨"WR.MBC5.ROMBLO", 0x01200000#32, 0xFFF00000#32, some .mbc5, none, none⟩,
    ⟨"WR.MBC5.ROMBHI", 0x01300000#32, 0xFFF00000#32, some .mbc5, none, none⟩,
    ⟨"WR.MBC5.RAMB", 0x01400000#32, 0xFFE00000#32, some .mbc5, none, none⟩,
    ⟨"WR.MBC5.NOP6", 0x01600000#32, 0xFFE00000#32, some .mbc5, none, none⟩ ]

/-- The 8 rows of the other bus writes (R61, R180). -/
def writeRows : List OpcodeRow :=
  [ ⟨"WR.GAP8", 0x01800000#32, 0xFFE00000#32, none, none, none⟩,
    ⟨"WR.XRAM", 0x01A00000#32, 0xFFE00000#32, none, none, none⟩,
    ⟨"WR.WRAM", 0x01C00000#32, 0xFFE00000#32, none, none, none⟩,
    ⟨"WR.IE", 0x01FFFF00#32, 0xFFFFFF00#32, none, none, none⟩,
    ⟨"WR.HRAM", 0x01FF8000#32, 0xFFFF8000#32, none, none, none⟩,
    ⟨"WR.IO", 0x01FF0000#32, 0xFFFF8000#32, none, none, none⟩,
    ⟨"WR.GAPFE", 0x01FE0000#32, 0xFFFF0000#32, none, none, none⟩,
    ⟨"WR.ECHO", 0x01E00000#32, 0xFFE00000#32, none, none, none⟩ ]

/-- The whole table, in the order of its `priority` key. -/
def opcodeTable : List OpcodeRow := registerRows ++ readRows ++ mbc12Rows ++ mbc35Rows ++ writeRows

/-- R120: `(T & mask) == match`, the context equals the instance's, and the selector constraint holds. -/
def OpcodeRow.selects (ctx : Context) (t : TWord) (row : OpcodeRow) : Bool :=
  (t &&& row.mask) == row.pattern &&
    row.variant.all (· == ctx.variant) && row.bankMode.all (· == ctx.bankMode) &&
    row.selMax.all (fun n => decide ((t.extractLsb' 20 3).toNat ≤ n))

/-- R120: the first row, in the order of the list, that selects the word. -/
def tableRow (ctx : Context) (t : TWord) : Option String :=
  (opcodeTable.find? (OpcodeRow.selects ctx t)).map OpcodeRow.mnemonic

/-- The name of the operation's row. -/
def Instr.mnemonic : Instr → String
  | .rd8 _ => "RD8"
  | .wr8 _ _ => "WR8"
  | .rd16 _ => "RD16"
  | .wr16 _ _ => "WR16"
  | .bump => "BUMP"
  | .inchl => "INCHL"
  | .dechl => "DECHL"
  | .ftest _ => "FTEST"
  | .fset _ => "FSET"
  | .fclr _ => "FCLR"
  | .fput _ _ => "FPUT"
  | .rdctl _ => "RDCTL"
  | .wrctl _ _ => "WRCTL"
  | .rdRom0 _ => "RD.ROM0"
  | .rdRomx _ => "RD.ROMX"
  | .rdGap8 _ => "RD.GAP8"
  | .rdXram _ => "RD.XRAM"
  | .rdWram _ => "RD.WRAM"
  | .rdIe => "RD.IE"
  | .rdHram _ => "RD.HRAM"
  | .rdIo _ => "RD.IO"
  | .rdGapfe _ => "RD.GAPFE"
  | .rdEcho _ => "RD.ECHO"
  | .wrMbc1Ramen _ _ => "WR.MBC1.RAMEN"
  | .wrMbc1Romb _ _ => "WR.MBC1.ROMB"
  | .wrMbc1Rombhi _ _ => "WR.MBC1.ROMBHI"
  | .wrMbc1Ramb _ _ => "WR.MBC1.RAMB"
  | .wrMbc1Mode _ _ => "WR.MBC1.MODE"
  | .wrMbc2Ramtog _ _ => "WR.MBC2.RAMTOG"
  | .wrMbc2Nop0 _ _ => "WR.MBC2.NOP0"
  | .wrMbc2Romb _ _ => "WR.MBC2.ROMB"
  | .wrMbc2Nop2 _ _ => "WR.MBC2.NOP2"
  | .wrMbc2Nop4 _ _ => "WR.MBC2.NOP4"
  | .wrMbc3Ramen _ _ => "WR.MBC3.RAMEN"
  | .wrMbc3Romb _ _ => "WR.MBC3.ROMB"
  | .wrMbc3Ramb _ _ => "WR.MBC3.RAMB"
  | .wrMbc3Rtclatch _ _ => "WR.MBC3.RTCLATCH"
  | .wrMbc5Ramen _ _ => "WR.MBC5.RAMEN"
  | .wrMbc5Romblo _ _ => "WR.MBC5.ROMBLO"
  | .wrMbc5Rombhi _ _ => "WR.MBC5.ROMBHI"
  | .wrMbc5Ramb _ _ => "WR.MBC5.RAMB"
  | .wrMbc5Nop6 _ _ => "WR.MBC5.NOP6"
  | .wrGap8 _ _ => "WR.GAP8"
  | .wrXram _ _ => "WR.XRAM"
  | .wrWram _ _ => "WR.WRAM"
  | .wrIe _ => "WR.IE"
  | .wrHram _ _ => "WR.HRAM"
  | .wrIo _ _ => "WR.IO"
  | .wrGapfe _ _ => "WR.GAPFE"
  | .wrEcho _ _ => "WR.ECHO"

end Sys2Proof
end

