-- ==== Sys2Proof/Machine/Bits.lean ====
section
/-! DEFINITION. The bit and byte helpers the register file uses: the two halves of a 16-bit view and their
concatenation (R21, R65), and zero extension onto `REG_RDATA` (R104). -/

namespace Sys2Proof.Machine

/-- Bits 15:8. -/
def highByte (w : Word) : Byte := w.extractLsb' 8 8

/-- Bits 7:0. -/
def lowByte (w : Word) : Byte := w.extractLsb' 0 8

/-- R21: `{high, low}`, that is `(high << 8) | low`. -/
def pairOf (high low : Byte) : Word := (high.setWidth 16 <<< 8) ||| low.setWidth 16

/-- `zext_16`. -/
def zext16 (v : Byte) : Word := v.setWidth 16

/-- A truth value on `REG_RDATA`: 1 if true, else 0 (R104). -/
def boolWord (b : Bool) : Word := if b then 1#16 else 0#16

end Sys2Proof.Machine
end

