-- ==== Sys2Proof/Machine/Parts.lean ====
section
/-! DEFINITION. The two components of the block as plain data (R1), and the result of a transaction. RegisterFile and
AddressSpace are not coupled: neither record holds anything of the other. -/

namespace Sys2Proof.Machine

/-- RegisterFile: R20 (the eight registers), R24 and R25 (PC, SP), R26 (the latches). The 16-bit views have no storage
of their own (R21). -/
structure RegisterFile where
  a : Byte
  b : Byte
  c : Byte
  d : Byte
  e : Byte
  f : Byte
  h : Byte
  l : Byte
  sp : Word
  pc : Word
  halted : Bool
  stopped : Bool
  ime : Bool
  deriving DecidableEq, Repr

/-- The bank controller's registers, one record for every variant (R32; log entry 14): R33 `rom_bank`, R34 `ram_bank`,
R35 `ram_enabled`, R36 `bank_mode`. The widths are the widest any variant has; which values a variant holds is an
invariant (R242). -/
structure BankController where
  romBank : BitVec 9
  ramBank : BitVec 4
  ramEnabled : Bool
  bankMode : BankMode
  deriving DecidableEq, Repr

/-- AddressSpace: the bank controller, R28 `xram`, R29 `wram`, R30 `hram`, R31 `ie`. `ROM` is configuration (R27). -/
structure AddressSpace where
  mbc : BankController
  xram : Memory
  wram : Memory
  hram : Memory
  ie : Byte
  deriving DecidableEq, Repr

/-- What the last transaction returned to the executor, and on which port's `RDATA` lines (R100; log entry 4). -/
inductive Reply where
  /-- the transaction returns nothing, or there has been none -/
  | nothing
  /-- `BUS_RDATA[7:0]` -/
  | bus (value : Byte)
  /-- `REG_RDATA[15:0]` -/
  | reg (value : Word)
  deriving DecidableEq, Repr

end Sys2Proof.Machine
end

