-- ==== Sys2Proof/Machine/Flags.lean ====
section
/-! DEFINITION. The flag byte F (R22, R23) and the flag algebra over it (R137 to R140). No operation of the block
computes a flag from an arithmetic result (R143), so this is every flag computation there is. -/

namespace Sys2Proof.Machine

/-- R22. -/
def flagZ : Byte := 0x80#8
/-- R22. -/
def flagN : Byte := 0x40#8
/-- R22. -/
def flagH : Byte := 0x20#8
/-- R22. -/
def flagC : Byte := 0x10#8

/-- R23: what every write path into F stores, `v & 0xF0` (the spec's decision D4; log entry 8). -/
def flagByte (v : Byte) : Byte := v &&& 0xF0#8

/-- R137: is any flag of the mask set? -/
def flagsTest (f m : Byte) : Bool := (f &&& m) != 0#8

/-- R138. -/
def flagsSet (f m : Byte) : Byte := flagByte (f ||| m)

/-- R139. -/
def flagsClear (f m : Byte) : Byte := flagByte (f &&& ~~~m)

/-- R140. -/
def flagsPut (f m : Byte) (b : Bool) : Byte := if b then flagsSet f m else flagsClear f m

end Sys2Proof.Machine
end

