-- ==== Sys2Proof/Machine/Operands.lean ====
section
/-! DEFINITION. The operand forms of the register port: an 8-bit register (R20, R131), a 16-bit view (R21, R132, R133)
and a latch (R26, R141, R142), read and written. -/

namespace Sys2Proof.Machine

/-- `x8[r]` -/
def RegisterFile.read8 (g : RegisterFile) : Reg8 → Byte
  | .a => g.a | .b => g.b | .c => g.c | .d => g.d | .e => g.e | .f => g.f | .h => g.h | .l => g.l

/-- `x8[r] <- v` (R131); F stores its high nibble only (R23). -/
def RegisterFile.write8 (g : RegisterFile) (r : Reg8) (v : Byte) : RegisterFile :=
  match r with
  | .a => { g with a := v }
  | .b => { g with b := v }
  | .c => { g with c := v }
  | .d => { g with d := v }
  | .e => { g with e := v }
  | .f => { g with f := flagByte v }
  | .h => { g with h := v }
  | .l => { g with l := v }

/-- `x16[p]` (R132). -/
def RegisterFile.read16 (g : RegisterFile) : View16 → Word
  | .af => pairOf g.a g.f
  | .bc => pairOf g.b g.c
  | .de => pairOf g.d g.e
  | .hl => pairOf g.h g.l
  | .sp => g.sp
  | .pc => g.pc

/-- `x16[p] <- v` (R133); writing a view writes both halves, F its high nibble only. -/
def RegisterFile.write16 (g : RegisterFile) (p : View16) (v : Word) : RegisterFile :=
  match p with
  | .af => { g with a := highByte v, f := flagByte (lowByte v) }
  | .bc => { g with b := highByte v, c := lowByte v }
  | .de => { g with d := highByte v, e := lowByte v }
  | .hl => { g with h := highByte v, l := lowByte v }
  | .sp => { g with sp := v }
  | .pc => { g with pc := v }

/-- `latch(c)` (R141). -/
def RegisterFile.latch (g : RegisterFile) : Latch → Bool
  | .halted => g.halted | .stopped => g.stopped | .ime => g.ime

/-- `latch(c) <- b` (R142): only the named latch changes. -/
def RegisterFile.setLatch (g : RegisterFile) (c : Latch) (b : Bool) : RegisterFile :=
  match c with
  | .halted => { g with halted := b }
  | .stopped => { g with stopped := b }
  | .ime => { g with ime := b }

end Sys2Proof.Machine
end

