-- ==== Sys2Proof/Machine/Ops.lean ====
section
/-! DEFINITION. The shared operations: the program counter and HL stepping (R134 to R136), the index functions of the
address translation (R69 to R74), one read and one write per region (41_bus_router.md), every register update of the
bank controller (42_mbc.md), and the bus primitives `MemRead` and `MemWrite` (R170, R180).

The block raises no exception and has no trap entry or return (R250, R257, R258), so there is no operation for one. -/

namespace Sys2Proof.Machine

/-! ### RegisterFile -/

/-- R134: `pc <- (pc + 1) mod 0x10000`. -/
def RegisterFile.bumpPc (g : RegisterFile) : RegisterFile := { g with pc := g.pc + 1#16 }

/-- R135: L plus one, and H plus one when L wraps to 0x00 (log entry 17). -/
def RegisterFile.incHl (g : RegisterFile) : RegisterFile :=
  if g.l + 1#8 = 0x00#8 then { g with l := 0x00#8, h := g.h + 1#8 } else { g with l := g.l + 1#8 }

/-- R136: L minus one, and H minus one when L wraps to 0xFF. -/
def RegisterFile.decHl (g : RegisterFile) : RegisterFile :=
  if g.l + 0xFF#8 = 0xFF#8 then { g with l := 0xFF#8, h := g.h + 0xFF#8 } else { g with l := g.l + 0xFF#8 }

/-! ### Address translation (20_memory.md section 4). An index is a natural number and never wraps. -/

/-- The open-bus value. -/
def openBus : Byte := 0xFF#8

/-- `addr - base`, for an address at or above the base of its window (log entry 22). -/
def offsetFrom (base addr : Word) : Nat := (addr - base).toNat

/-- R69. -/
def romIndex0 (addr : Word) : Nat := addr.toNat

/-- R70: the whole register enters, in either bank mode (log entry 20). -/
def romIndexX (m : BankController) (addr : Word) : Nat := offsetFrom 0x4000#16 addr + m.romBank.toNat * 0x4000

/-- R71. -/
def xramIndex (m : BankController) (addr : Word) : Nat := offsetFrom 0xA000#16 addr + m.ramBank.toNat * 0x2000

/-- R73: `addr & 0x1FFF`, for the two banks and their mirror. -/
def wramIndex (addr : Word) : Nat := (addr &&& 0x1FFF#16).toNat

/-- R74. -/
def hramIndex (addr : Word) : Nat := offsetFrom 0xFF80#16 addr

/-! ### One read and one write per region -/

/-- R171, R172: the ROM byte, or the open bus beyond the image (R72, the spec's decision D11: log entry 11). -/
def romByte (cfg : Config) (i : Nat) : Byte :=
  if inRange i cfg.romLen then Memory.read cfg.rom i else openBus

/-- R173: gated by `ram_enabled`, then by the size; the byte whole under MBC2 too (log entry 19). -/
def AddressSpace.readXram (cfg : Config) (sp : AddressSpace) (addr : Word) : Byte :=
  if sp.mbc.ramEnabled then
    (if inRange (xramIndex sp.mbc addr) cfg.xramSize then Memory.read sp.xram (xramIndex sp.mbc addr) else openBus)
  else openBus

/-- R174, R175. -/
def AddressSpace.readWram (sp : AddressSpace) (addr : Word) : Byte := Memory.read sp.wram (wramIndex addr)

/-- R176. -/
def AddressSpace.readHram (sp : AddressSpace) (addr : Word) : Byte := Memory.read sp.hram (hramIndex addr)

/-- R182: MBC2 cells hold four bits. -/
def xramValue (variant : Variant) (v : Byte) : Byte :=
  match variant with
  | .mbc2 => v &&& 0x0F#8
  | .mbc1 | .mbc3 | .mbc5 => v

/-- R182: discarded while RAM is disabled or the index is out of range. -/
def AddressSpace.writeXram (cfg : Config) (sp : AddressSpace) (addr : Word) (v : Byte) : AddressSpace :=
  if sp.mbc.ramEnabled then
    { sp with xram := Memory.store cfg.xramSize sp.xram (xramIndex sp.mbc addr) (xramValue cfg.variant v) }
  else sp

/-- R183, R184. -/
def AddressSpace.writeWram (sp : AddressSpace) (addr : Word) (v : Byte) : AddressSpace :=
  { sp with wram := Memory.store wramSize sp.wram (wramIndex addr) v }

/-- R185. -/
def AddressSpace.writeHram (sp : AddressSpace) (addr : Word) (v : Byte) : AddressSpace :=
  { sp with hram := Memory.store hramSize sp.hram (hramIndex addr) v }

/-- R186: all 8 bits are stored. -/
def AddressSpace.writeIe (sp : AddressSpace) (v : Byte) : AddressSpace := { sp with ie := v }

/-! ### Bank controller registers (42_mbc.md) -/

/-- The field of a bank-number write, 0 coerced to 1 (R201, R221; the spec's decision D10: log entry 10). -/
def coerceBank (n : Byte) : Byte := if n = 0#8 then 1#8 else n

/-- R200: RAM enable by value. -/
def BankController.ramEnable (m : BankController) (v : Byte) : BankController :=
  { m with ramEnabled := (v &&& 0x0F#8) == 0x0A#8 }

/-- R201: MBC1, bits 4:0; bits 6:5 are kept. -/
def BankController.mbc1RomLow (m : BankController) (v : Byte) : BankController :=
  { m with romBank := (m.romBank &&& 0x60#9) ||| (coerceBank (v &&& 0x1F#8)).setWidth 9 }

/-- R202: MBC1 in Rom mode, bits 6:5; bits 4:0 are kept. -/
def BankController.mbc1RomHigh (m : BankController) (v : Byte) : BankController :=
  { m with romBank := (m.romBank &&& 0x1F#9) ||| ((v &&& 0x03#8).setWidth 9 <<< 5) }

/-- R203, R222: two bits of RAM bank. -/
def BankController.ramBankTwoBits (m : BankController) (v : Byte) : BankController :=
  { m with ramBank := (v &&& 0x03#8).setWidth 4 }

/-- R204: bit 0 = 0 is Rom, bit 0 = 1 is Ram (the spec's decision D13: log entry 16). -/
def BankController.selectMode (m : BankController) (v : Byte) : BankController :=
  { m with bankMode := if v &&& 0x01#8 = 1#8 then .ram else .rom }

/-- R210: the value is ignored (log entry 19). -/
def BankController.ramToggle (m : BankController) : BankController := { m with ramEnabled := !m.ramEnabled }

/-- R212: four bits, no coercion. -/
def BankController.mbc2Rom (m : BankController) (v : Byte) : BankController :=
  { m with romBank := (v &&& 0x0F#8).setWidth 9 }

/-- R221: seven bits, 0 coerced to 1. -/
def BankController.mbc3Rom (m : BankController) (v : Byte) : BankController :=
  { m with romBank := (coerceBank (v &&& 0x7F#8)).setWidth 9 }

/-- R231: MBC5, bits 7:0; bit 8 is kept. -/
def BankController.mbc5RomLow (m : BankController) (v : Byte) : BankController :=
  { m with romBank := (m.romBank &&& 0x100#9) ||| v.setWidth 9 }

/-- R232: MBC5, bit 8; bits 7:0 are kept. -/
def BankController.mbc5RomHigh (m : BankController) (v : Byte) : BankController :=
  { m with romBank := (m.romBank &&& 0x0FF#9) ||| ((v &&& 0x01#8).setWidth 9 <<< 8) }

/-- R233: four bits of RAM bank. -/
def BankController.ramBankFourBits (m : BankController) (v : Byte) : BankController :=
  { m with ramBank := (v &&& 0x0F#8).setWidth 4 }

/-! ### The bus primitives -/

/-- R170: `MemRead(addr, 1)`, the branches in the rule's order. -/
def memRead (cfg : Config) (sp : AddressSpace) (addr : Word) : Byte :=
  if addr.toNat ≤ 0x3FFF then romByte cfg (romIndex0 addr)
  else if addr.toNat ≤ 0x7FFF then romByte cfg (romIndexX sp.mbc addr)
  else if addr.toNat ≤ 0x9FFF then openBus
  else if addr.toNat ≤ 0xBFFF then sp.readXram cfg addr
  else if addr.toNat ≤ 0xDFFF then sp.readWram addr
  else if addr.toNat ≤ 0xFDFF then sp.readWram addr
  else if addr.toNat ≤ 0xFEFF then openBus
  else if addr.toNat ≤ 0xFF7F then openBus
  else if addr.toNat ≤ 0xFFFE then sp.readHram addr
  else sp.ie

/-- R109, R200 to R204: a control write under MBC1. -/
def BankController.controlMbc1 (m : BankController) (addr : Word) (v : Byte) : BankController :=
  if addr.toNat ≤ 0x1FFF then m.ramEnable v
  else if addr.toNat ≤ 0x3FFF then m.mbc1RomLow v
  else if addr.toNat ≤ 0x5FFF then
    (match m.bankMode with
    | .rom => m.mbc1RomHigh v
    | .ram => m.ramBankTwoBits v)
  else m.selectMode v

/-- R109, R210 to R214: a control write under MBC2. -/
def BankController.controlMbc2 (m : BankController) (addr : Word) (v : Byte) : BankController :=
  if addr.toNat ≤ 0x1FFF then (if addr.getLsbD 8 then m else m.ramToggle)
  else if addr.toNat ≤ 0x3FFF then (if addr.getLsbD 8 then m.mbc2Rom v else m)
  else m

/-- R109, R200, R221 to R223: a control write under MBC3. -/
def BankController.controlMbc3 (m : BankController) (addr : Word) (v : Byte) : BankController :=
  if addr.toNat ≤ 0x1FFF then m.ramEnable v
  else if addr.toNat ≤ 0x3FFF then m.mbc3Rom v
  else if addr.toNat ≤ 0x5FFF then m.ramBankTwoBits v
  else m

/-- R109, R200, R231 to R234: a control write under MBC5. -/
def BankController.controlMbc5 (m : BankController) (addr : Word) (v : Byte) : BankController :=
  if addr.toNat ≤ 0x1FFF then m.ramEnable v
  else if addr.toNat ≤ 0x2FFF then m.mbc5RomLow v
  else if addr.toNat ≤ 0x3FFF then m.mbc5RomHigh v
  else if addr.toNat ≤ 0x5FFF then m.ramBankFourBits v
  else m

/-- R181: dispatch of a control write by the variant. -/
def BankController.control (variant : Variant) (m : BankController) (addr : Word) (v : Byte) : BankController :=
  match variant with
  | .mbc1 => m.controlMbc1 addr v
  | .mbc2 => m.controlMbc2 addr v
  | .mbc3 => m.controlMbc3 addr v
  | .mbc5 => m.controlMbc5 addr v

/-- R180: `MemWrite(addr, 1, v)`, the branches in the rule's order. -/
def memWrite (cfg : Config) (sp : AddressSpace) (addr : Word) (v : Byte) : AddressSpace :=
  if addr.toNat ≤ 0x7FFF then { sp with mbc := sp.mbc.control cfg.variant addr v }
  else if addr.toNat ≤ 0x9FFF then sp
  else if addr.toNat ≤ 0xBFFF then sp.writeXram cfg addr v
  else if addr.toNat ≤ 0xDFFF then sp.writeWram addr v
  else if addr.toNat ≤ 0xFDFF then sp.writeWram addr v
  else if addr.toNat ≤ 0xFEFF then sp
  else if addr.toNat ≤ 0xFF7F then sp
  else if addr.toNat ≤ 0xFFFE then sp.writeHram addr v
  else sp.writeIe v

/-! ### Reset values (10_state.md section 4) -/

/-- R40, R41 (log entries 9 and 18). -/
def RegisterFile.atReset (ime : Bool) : RegisterFile where
  a := 0x01#8
  b := 0x00#8
  c := 0x13#8
  d := 0x00#8
  e := 0xD8#8
  f := 0x00#8
  h := 0x01#8
  l := 0x4D#8
  sp := 0xFFFE#16
  pc := 0x0100#16
  halted := false
  stopped := false
  ime := ime

/-- R42, the same for every variant (log entry 9). -/
def BankController.atReset : BankController where
  romBank := 1#9
  ramBank := 0#4
  ramEnabled := false
  bankMode := .rom

/-- R43, R280 steps (3) and (4): before the power-up writes. -/
def AddressSpace.atReset (cfg : Config) : AddressSpace where
  mbc := BankController.atReset
  xram := cfg.xramInit
  wram := cfg.wramInit
  hram := cfg.hramInit
  ie := cfg.ieReset

/-- R282: the power-up writes, in the table's order, each an ordinary bus write (log entry 26). -/
def AddressSpace.powerup (cfg : Config) (sp : AddressSpace) (writes : List (Word × Byte)) : AddressSpace :=
  writes.foldl (fun acc w => memWrite cfg acc w.1 w.2) sp

end Sys2Proof.Machine
end

