-- ==== Sys2Proof/Machine/State.lean ====
section
/-! DEFINITION. The whole state (R44), the outcomes that are not a next state, and reset (R280). -/

namespace Sys2Proof.Machine

/-- R44's tuple is `rf` and `bus`. The other three fields are the model's own: the configuration the block was built
with, which no step changes (R4; log entry 1), the transactions the executor has presented and the block has not yet
performed (R2, R7; log entry 2), and what the last transaction returned (R100; log entry 4). -/
structure State where
  cfg : Config
  rf : RegisterFile
  bus : AddressSpace
  pending : List TWord
  reply : Reply
  deriving DecidableEq, Repr

/-- R250: "The block raises no exception, fault or trap". The type has no constructor: no step can fault, and nobody
raises one. Safe and exact. -/
inductive Fault
  deriving DecidableEq, Repr

/-- R265: the only refusal of a model of this block is of a word that spells no operation. -/
inductive Refusal where
  /-- Raised by an arm of `exec` whose instruction has no meaning yet. No arm does: every one is modelled. Safe. -/
  | notModelled (mnemonic : String)
  /-- Raised by `step` for a presented word that spells no operation (R113, the spec's decision D16; log entry 13). Safe:
  nothing is claimed of such a word. -/
  | reservedWord (why : DecodeError)
  deriving DecidableEq, Repr

/-- R115: the decode context of the moment. -/
def State.context (s : State) : Context := ⟨s.cfg.variant, s.bus.mbc.bankMode⟩

/-- R280: the state right after the construction of a block with configuration `cfg`, no transaction presented yet. -/
def State.resetOf (cfg : Config) : State where
  cfg := cfg
  rf := RegisterFile.atReset cfg.imeReset
  bus := (AddressSpace.atReset cfg).powerup cfg cfg.powerupWrites
  pending := []
  reply := .nothing

/-- The machine right after reset, in the configuration log entry 5 names. -/
def State.reset : State := State.resetOf Config.standard

end Sys2Proof.Machine
end

