-- ==== Sys2Proof/Machine/Effects.lean ====
section
/-! DEFINITION. How a transaction ends: it answers and changes nothing, or it changes one of the two components and
answers nothing (R1: never both; the one transaction that does both to RegisterFile is `BUMP`, R134). And how the block
takes the next presented transaction. -/

namespace Sys2Proof.Machine

/-- A transaction that returns `r` and changes nothing else. -/
def State.answer (s : State) (r : Reply) : State := { s with reply := r }

/-- A register operation: RegisterFile becomes `g`, the result is `r`. -/
def State.toRegs (s : State) (g : RegisterFile) (r : Reply) : State := { s with rf := g, reply := r }

/-- A bus write: AddressSpace becomes `sp`, no result. -/
def State.toBus (s : State) (sp : AddressSpace) : State := { s with bus := sp, reply := .nothing }

/-- A control write: the bank controller becomes `m`, no result. -/
def State.toMbc (s : State) (m : BankController) : State := s.toBus { s.bus with mbc := m }

/-- The oldest presented transaction, and the state without it. -/
def State.takeWord (s : State) : Option (TWord × State) :=
  match s.pending with
  | [] => none
  | t :: rest => some (t, { s with pending := rest })

/-- Present `t` as the next transaction. -/
def State.present (s : State) (t : TWord) : State := { s with pending := t :: s.pending }

end Sys2Proof.Machine
end

