-- ==== Sys2Proof/Machine/BusReads.lean ====
section
/-! DEFINITION. The 10 rows of the bus read (41_bus_router.md section 1). A read changes no state (R62): each answers
one byte. -/

namespace Sys2Proof.Machine

/-- R171. -/
def execRdRom0 (addr : Word) (s : State) : Host.Outcome State Fault Refusal :=
  .next (s.answer (.bus (romByte s.cfg (romIndex0 addr))))

/-- R172. -/
def execRdRomx (addr : Word) (s : State) : Host.Outcome State Fault Refusal :=
  .next (s.answer (.bus (romByte s.cfg (romIndexX s.bus.mbc addr))))

/-- R178, 0x8000–0x9FFF: the open bus, whatever the address. -/
def execRdGap8 (_addr : Word) (s : State) : Host.Outcome State Fault Refusal :=
  .next (s.answer (.bus openBus))

/-- R173. -/
def execRdXram (addr : Word) (s : State) : Host.Outcome State Fault Refusal :=
  .next (s.answer (.bus (s.bus.readXram s.cfg addr)))

/-- R174. -/
def execRdWram (addr : Word) (s : State) : Host.Outcome State Fault Refusal :=
  .next (s.answer (.bus (s.bus.readWram addr)))

/-- R177. -/
def execRdIe (s : State) : Host.Outcome State Fault Refusal :=
  .next (s.answer (.bus s.bus.ie))

/-- R176. -/
def execRdHram (addr : Word) (s : State) : Host.Outcome State Fault Refusal :=
  .next (s.answer (.bus (s.bus.readHram addr)))

/-- R178, 0xFF00–0xFF7F (`IO_OVERRIDE` absent: R77, log entry 12). -/
def execRdIo (_addr : Word) (s : State) : Host.Outcome State Fault Refusal :=
  .next (s.answer (.bus openBus))

/-- R178, 0xFE00–0xFEFF. -/
def execRdGapfe (_addr : Word) (s : State) : Host.Outcome State Fault Refusal :=
  .next (s.answer (.bus openBus))

/-- R175: the mirror, the same cells as R174. -/
def execRdEcho (addr : Word) (s : State) : Host.Outcome State Fault Refusal :=
  .next (s.answer (.bus (s.bus.readWram addr)))

end Sys2Proof.Machine
end

