-- ==== Sys2Proof/Machine/BusWrites.lean ====
section
/-! DEFINITION. The 8 rows of the bus write outside the control range (41_bus_router.md section 2). -/

namespace Sys2Proof.Machine

/-- R187, 0x8000–0x9FFF: a no-op. -/
def execWrGap8 (_addr : Word) (_v : Byte) (s : State) : Host.Outcome State Fault Refusal :=
  .next (s.toBus s.bus)

/-- R182. -/
def execWrXram (addr : Word) (v : Byte) (s : State) : Host.Outcome State Fault Refusal :=
  .next (s.toBus (s.bus.writeXram s.cfg addr v))

/-- R183. -/
def execWrWram (addr : Word) (v : Byte) (s : State) : Host.Outcome State Fault Refusal :=
  .next (s.toBus (s.bus.writeWram addr v))

/-- R186. -/
def execWrIe (v : Byte) (s : State) : Host.Outcome State Fault Refusal :=
  .next (s.toBus (s.bus.writeIe v))

/-- R185. -/
def execWrHram (addr : Word) (v : Byte) (s : State) : Host.Outcome State Fault Refusal :=
  .next (s.toBus (s.bus.writeHram addr v))

/-- R187, 0xFF00–0xFF7F: a no-op (`IO_OVERRIDE` absent: R77, log entry 12). -/
def execWrIo (_addr : Word) (_v : Byte) (s : State) : Host.Outcome State Fault Refusal :=
  .next (s.toBus s.bus)

/-- R187, 0xFE00–0xFEFF: a no-op. -/
def execWrGapfe (_addr : Word) (_v : Byte) (s : State) : Host.Outcome State Fault Refusal :=
  .next (s.toBus s.bus)

/-- R184: the mirror is writable, the same cells as R183. -/
def execWrEcho (addr : Word) (v : Byte) (s : State) : Host.Outcome State Fault Refusal :=
  .next (s.toBus (s.bus.writeWram addr v))

end Sys2Proof.Machine
end

