-- ==== Sys2Proof/Machine/Mbc1.lean ====
section
/-! DEFINITION. The control writes of MBC1 (42_mbc.md sections 1 and 2). A control write changes at most one register of the
bank controller (R243), answers nothing and cannot fail (R240). The address inside its range does not matter, except
where decoding looked at a bit of it. -/

namespace Sys2Proof.Machine

/-- R200. -/
def execWrMbc1Ramen (_addr : Word) (v : Byte) (s : State) : Host.Outcome State Fault Refusal :=
  .next (s.toMbc (s.bus.mbc.ramEnable v))

/-- R201. -/
def execWrMbc1Romb (_addr : Word) (v : Byte) (s : State) : Host.Outcome State Fault Refusal :=
  .next (s.toMbc (s.bus.mbc.mbc1RomLow v))

/-- R202: decoded only while `bank_mode` = Rom (R115). -/
def execWrMbc1Rombhi (_addr : Word) (v : Byte) (s : State) : Host.Outcome State Fault Refusal :=
  .next (s.toMbc (s.bus.mbc.mbc1RomHigh v))

/-- R203: decoded only while `bank_mode` = Ram (R115). -/
def execWrMbc1Ramb (_addr : Word) (v : Byte) (s : State) : Host.Outcome State Fault Refusal :=
  .next (s.toMbc (s.bus.mbc.ramBankTwoBits v))

/-- R204. -/
def execWrMbc1Mode (_addr : Word) (v : Byte) (s : State) : Host.Outcome State Fault Refusal :=
  .next (s.toMbc (s.bus.mbc.selectMode v))

end Sys2Proof.Machine
end

