-- ==== Sys2Proof/Machine/Mbc2.lean ====
section
/-! DEFINITION. The control writes of MBC2 (42_mbc.md section 3). A control write changes at most one register of the
bank controller (R243), answers nothing and cannot fail (R240). The address inside its range does not matter, except
where decoding looked at a bit of it. -/

namespace Sys2Proof.Machine

/-- R210: address bit 8 clear; the value is ignored. -/
def execWrMbc2Ramtog (_addr : Word) (_v : Byte) (s : State) : Host.Outcome State Fault Refusal :=
  .next (s.toMbc s.bus.mbc.ramToggle)

/-- R211: address bit 8 set, a no-op. -/
def execWrMbc2Nop0 (_addr : Word) (_v : Byte) (s : State) : Host.Outcome State Fault Refusal :=
  .next (s.toBus s.bus)

/-- R212: address bit 8 set. -/
def execWrMbc2Romb (_addr : Word) (v : Byte) (s : State) : Host.Outcome State Fault Refusal :=
  .next (s.toMbc (s.bus.mbc.mbc2Rom v))

/-- R213: address bit 8 clear, a no-op. -/
def execWrMbc2Nop2 (_addr : Word) (_v : Byte) (s : State) : Host.Outcome State Fault Refusal :=
  .next (s.toBus s.bus)

/-- R214: a no-op. -/
def execWrMbc2Nop4 (_addr : Word) (_v : Byte) (s : State) : Host.Outcome State Fault Refusal :=
  .next (s.toBus s.bus)

end Sys2Proof.Machine
end

