-- ==== Sys2Proof/Machine/Mbc3.lean ====
section
/-! DEFINITION. The control writes of MBC3 (42_mbc.md sections 1 and 4). A control write changes at most one register of the
bank controller (R243), answers nothing and cannot fail (R240). The address inside its range does not matter, except
where decoding looked at a bit of it. -/

namespace Sys2Proof.Machine

/-- R200. -/
def execWrMbc3Ramen (_addr : Word) (v : Byte) (s : State) : Host.Outcome State Fault Refusal :=
  .next (s.toMbc (s.bus.mbc.ramEnable v))

/-- R221. -/
def execWrMbc3Romb (_addr : Word) (v : Byte) (s : State) : Host.Outcome State Fault Refusal :=
  .next (s.toMbc (s.bus.mbc.mbc3Rom v))

/-- R222. -/
def execWrMbc3Ramb (_addr : Word) (v : Byte) (s : State) : Host.Outcome State Fault Refusal :=
  .next (s.toMbc (s.bus.mbc.ramBankTwoBits v))

/-- R223, R252: the clock latch command, an accepted no-op, never a fault or a refusal. -/
def execWrMbc3Rtclatch (_addr : Word) (_v : Byte) (s : State) : Host.Outcome State Fault Refusal :=
  .next (s.toBus s.bus)

end Sys2Proof.Machine
end

