-- ==== Sys2Proof/Machine/Mbc5.lean ====
section
/-! DEFINITION. The control writes of MBC5 (42_mbc.md sections 1 and 5). A control write changes at most one register of the
bank controller (R243), answers nothing and cannot fail (R240). The address inside its range does not matter, except
where decoding looked at a bit of it. -/

namespace Sys2Proof.Machine

/-- R200. -/
def execWrMbc5Ramen (_addr : Word) (v : Byte) (s : State) : Host.Outcome State Fault Refusal :=
  .next (s.toMbc (s.bus.mbc.ramEnable v))

/-- R231. -/
def execWrMbc5Romblo (_addr : Word) (v : Byte) (s : State) : Host.Outcome State Fault Refusal :=
  .next (s.toMbc (s.bus.mbc.mbc5RomLow v))

/-- R232. -/
def execWrMbc5Rombhi (_addr : Word) (v : Byte) (s : State) : Host.Outcome State Fault Refusal :=
  .next (s.toMbc (s.bus.mbc.mbc5RomHigh v))

/-- R233. -/
def execWrMbc5Ramb (_addr : Word) (v : Byte) (s : State) : Host.Outcome State Fault Refusal :=
  .next (s.toMbc (s.bus.mbc.ramBankFourBits v))

/-- R234: a no-op. -/
def execWrMbc5Nop6 (_addr : Word) (_v : Byte) (s : State) : Host.Outcome State Fault Refusal :=
  .next (s.toBus s.bus)

end Sys2Proof.Machine
end

