-- ==== Sys2Proof/Machine/RegisterOps.lean ====
section
/-! DEFINITION. The 13 operations of the register port (40_regfile_ops.md). Each is total (R146), none touches
AddressSpace (R144), and none looks at a latch but `RDCTL` (R26). -/

namespace Sys2Proof.Machine

/-- R130. -/
def execRd8 (r : Reg8) (s : State) : Host.Outcome State Fault Refusal :=
  .next (s.answer (.reg (zext16 (s.rf.read8 r))))

/-- R131. -/
def execWr8 (r : Reg8) (v : Byte) (s : State) : Host.Outcome State Fault Refusal :=
  .next (s.toRegs (s.rf.write8 r v) .nothing)

/-- R132. -/
def execRd16 (p : View16) (s : State) : Host.Outcome State Fault Refusal :=
  .next (s.answer (.reg (s.rf.read16 p)))

/-- R133. -/
def execWr16 (p : View16) (v : Word) (s : State) : Host.Outcome State Fault Refusal :=
  .next (s.toRegs (s.rf.write16 p v) .nothing)

/-- R134: the result is the PC before the increment. -/
def execBump (s : State) : Host.Outcome State Fault Refusal :=
  .next (s.toRegs s.rf.bumpPc (.reg s.rf.pc))

/-- R135. -/
def execInchl (s : State) : Host.Outcome State Fault Refusal :=
  .next (s.toRegs s.rf.incHl .nothing)

/-- R136. -/
def execDechl (s : State) : Host.Outcome State Fault Refusal :=
  .next (s.toRegs s.rf.decHl .nothing)

/-- R137. -/
def execFtest (m : Byte) (s : State) : Host.Outcome State Fault Refusal :=
  .next (s.answer (.reg (boolWord (flagsTest s.rf.f m))))

/-- R138. -/
def execFset (m : Byte) (s : State) : Host.Outcome State Fault Refusal :=
  .next (s.toRegs { s.rf with f := flagsSet s.rf.f m } .nothing)

/-- R139. -/
def execFclr (m : Byte) (s : State) : Host.Outcome State Fault Refusal :=
  .next (s.toRegs { s.rf with f := flagsClear s.rf.f m } .nothing)

/-- R140. -/
def execFput (m : Byte) (b : Bool) (s : State) : Host.Outcome State Fault Refusal :=
  .next (s.toRegs { s.rf with f := flagsPut s.rf.f m b } .nothing)

/-- R141. -/
def execRdctl (c : Latch) (s : State) : Host.Outcome State Fault Refusal :=
  .next (s.answer (.reg (boolWord (s.rf.latch c))))

/-- R142. -/
def execWrctl (c : Latch) (b : Bool) (s : State) : Host.Outcome State Fault Refusal :=
  .next (s.toRegs (s.rf.setLatch c b) .nothing)

end Sys2Proof.Machine
end

