-- ==== Sys2Proof/Machine/Dispatch.lean ====
section
/-! DEFINITION. One arm per constructor of Instr, each one direct call of its meaning. -/

namespace Sys2Proof.Machine

def exec (i : Instr) (s : State) : Host.Outcome State Fault Refusal :=
  match i with
  | .rd8 r => Sys2Proof.Machine.execRd8 r s
  | .wr8 r v => Sys2Proof.Machine.execWr8 r v s
  | .rd16 p => Sys2Proof.Machine.execRd16 p s
  | .wr16 p v => Sys2Proof.Machine.execWr16 p v s
  | .bump => Sys2Proof.Machine.execBump s
  | .inchl => Sys2Proof.Machine.execInchl s
  | .dechl => Sys2Proof.Machine.execDechl s
  | .ftest m => Sys2Proof.Machine.execFtest m s
  | .fset m => Sys2Proof.Machine.execFset m s
  | .fclr m => Sys2Proof.Machine.execFclr m s
  | .fput m b => Sys2Proof.Machine.execFput m b s
  | .rdctl c => Sys2Proof.Machine.execRdctl c s
  | .wrctl c b => Sys2Proof.Machine.execWrctl c b s
  | .rdRom0 addr => Sys2Proof.Machine.execRdRom0 addr s
  | .rdRomx addr => Sys2Proof.Machine.execRdRomx addr s
  | .rdGap8 addr => Sys2Proof.Machine.execRdGap8 addr s
  | .rdXram addr => Sys2Proof.Machine.execRdXram addr s
  | .rdWram addr => Sys2Proof.Machine.execRdWram addr s
  | .rdIe => Sys2Proof.Machine.execRdIe s
  | .rdHram addr => Sys2Proof.Machine.execRdHram addr s
  | .rdIo addr => Sys2Proof.Machine.execRdIo addr s
  | .rdGapfe addr => Sys2Proof.Machine.execRdGapfe addr s
  | .rdEcho addr => Sys2Proof.Machine.execRdEcho addr s
  | .wrMbc1Ramen addr v => Sys2Proof.Machine.execWrMbc1Ramen addr v s
  | .wrMbc1Romb addr v => Sys2Proof.Machine.execWrMbc1Romb addr v s
  | .wrMbc1Rombhi addr v => Sys2Proof.Machine.execWrMbc1Rombhi addr v s
  | .wrMbc1Ramb addr v => Sys2Proof.Machine.execWrMbc1Ramb addr v s
  | .wrMbc1Mode addr v => Sys2Proof.Machine.execWrMbc1Mode addr v s
  | .wrMbc2Ramtog addr v => Sys2Proof.Machine.execWrMbc2Ramtog addr v s
  | .wrMbc2Nop0 addr v => Sys2Proof.Machine.execWrMbc2Nop0 addr v s
  | .wrMbc2Romb addr v => Sys2Proof.Machine.execWrMbc2Romb addr v s
  | .wrMbc2Nop2 addr v => Sys2Proof.Machine.execWrMbc2Nop2 addr v s
  | .wrMbc2Nop4 addr v => Sys2Proof.Machine.execWrMbc2Nop4 addr v s
  | .wrMbc3Ramen addr v => Sys2Proof.Machine.execWrMbc3Ramen addr v s
  | .wrMbc3Romb addr v => Sys2Proof.Machine.execWrMbc3Romb addr v s
  | .wrMbc3Ramb addr v => Sys2Proof.Machine.execWrMbc3Ramb addr v s
  | .wrMbc3Rtclatch addr v => Sys2Proof.Machine.execWrMbc3Rtclatch addr v s
  | .wrMbc5Ramen addr v => Sys2Proof.Machine.execWrMbc5Ramen addr v s
  | .wrMbc5Romblo addr v => Sys2Proof.Machine.execWrMbc5Romblo addr v s
  | .wrMbc5Rombhi addr v => Sys2Proof.Machine.execWrMbc5Rombhi addr v s
  | .wrMbc5Ramb addr v => Sys2Proof.Machine.execWrMbc5Ramb addr v s
  | .wrMbc5Nop6 addr v => Sys2Proof.Machine.execWrMbc5Nop6 addr v s
  | .wrGap8 addr v => Sys2Proof.Machine.execWrGap8 addr v s
  | .wrXram addr v => Sys2Proof.Machine.execWrXram addr v s
  | .wrWram addr v => Sys2Proof.Machine.execWrWram addr v s
  | .wrIe v => Sys2Proof.Machine.execWrIe v s
  | .wrHram addr v => Sys2Proof.Machine.execWrHram addr v s
  | .wrIo addr v => Sys2Proof.Machine.execWrIo addr v s
  | .wrGapfe addr v => Sys2Proof.Machine.execWrGapfe addr v s
  | .wrEcho addr v => Sys2Proof.Machine.execWrEcho addr v s

end Sys2Proof.Machine
end

