-- ==== Sys2Proof/Machine/Step.lean ====
section
/-! DEFINITION. One step: the block performs the oldest transaction the executor has presented (R2, R7, R78). -/

namespace Sys2Proof.Machine

/-- One transaction. With none presented the block stays as it is (R2: it "never changes state spontaneously"; R292: it
has no terminal state; log entry 3). A word that spells no operation is refused (R113). Otherwise the word's operation,
decoded in the context of the moment (R115), runs on the state without that word. -/
def step (s : State) : Host.Outcome State Fault Refusal :=
  match s.takeWord with
  | none => .next s
  | some (t, s') =>
    match decode s'.context t with
    | .error e => .refused (.reservedWord e)
    | .ok i => exec i s'

/-- The word `w` presented as the next transaction (log entry 2). -/
def State.withFetchWord (s : State) (nbits w : Nat) : State := s.present (tableWord nbits w)

end Sys2Proof.Machine
end

