-- ==== Sys2Proof/Machine/Trace.lean ====
section
/-! DEFINITION. A run as the spec speaks of it (R7, R292): a finite sequence of transactions, the state after the last,
and the results returned along the way. -/

namespace Sys2Proof.Machine

/-- Present `t` and perform it. -/
def transact (t : TWord) (s : State) : Host.Outcome State Fault Refusal := step (s.present t)

/-- Perform the transactions in order, stopping at the first that does not end in a next state. -/
def runWords : List TWord → State → Host.Outcome State Fault Refusal
  | [], s => .next s
  | t :: rest, s =>
    match transact t s with
    | .next s' => runWords rest s'
    | .fault r => .fault r
    | .refused r => .refused r

/-- The results of the transactions, in order, up to the first that does not end in a next state. -/
def results : List TWord → State → List Reply
  | [], _ => []
  | t :: rest, s =>
    match transact t s with
    | .next s' => s'.reply :: results rest s'
    | .fault _ => []
    | .refused _ => []

/-- The word of `RD addr` (R170). -/
def rdWord (addr : Word) : TWord := (Port.bus false addr 0#8).word

/-- The word of `WR addr, v` (R180). -/
def wrWord (addr : Word) (v : Byte) : TWord := (Port.bus true addr v).word

end Sys2Proof.Machine
end

