-- ==== Sys2Proof/Machine/Pseudo.lean ====
section
/-! DEFINITION. The pseudo-operations of R117: each is only its expansion into transactions. -/

namespace Sys2Proof.Machine

/-- R117. -/
inductive Pseudo where
  | fetch
  | ramon
  | ramoff
  | rombank (n : Nat)
  | rambank (n : Byte)
  deriving DecidableEq, Repr

/-- R117, `ROMBANK n`: the bank number cut into the variant's fields; no expansion for an `n` outside the variant's
range. Under MBC1 the upper write is part of the expansion in Rom mode only (log entry 15). -/
def rombankWords (ctx : Context) (n : Nat) : Option (List TWord) :=
  match ctx.variant with
  | .mbc1 =>
    if n < 0x80 then
      (match ctx.bankMode with
      | .rom => some [wrWord 0x2000#16 (BitVec.ofNat 8 (n % 0x20)), wrWord 0x4000#16 (BitVec.ofNat 8 (n / 0x20))]
      | .ram => some [wrWord 0x2000#16 (BitVec.ofNat 8 (n % 0x20))])
    else none
  | .mbc2 => if n < 0x10 then some [wrWord 0x2100#16 (BitVec.ofNat 8 n)] else none
  | .mbc3 => if n < 0x80 then some [wrWord 0x2000#16 (BitVec.ofNat 8 n)] else none
  | .mbc5 =>
    if n < 0x200 then
      some [wrWord 0x2000#16 (BitVec.ofNat 8 (n % 0x100)), wrWord 0x3000#16 (BitVec.ofNat 8 (n / 0x100))]
    else none

/-- R117, `RAMBANK n`: MBC1 in Ram mode, MBC3, MBC5. -/
def rambankWords (ctx : Context) (n : Byte) : Option (List TWord) :=
  match ctx.variant, ctx.bankMode with
  | .mbc1, .ram => some [wrWord 0x4000#16 n]
  | .mbc1, .rom => none
  | .mbc2, _ => none
  | .mbc3, _ => some [wrWord 0x4000#16 n]
  | .mbc5, _ => some [wrWord 0x4000#16 n]

/-- R117: the transactions a pseudo-operation stands for, issued in state `s` (`FETCH` reads at the PC that its `BUMP`
returns). -/
def Pseudo.expand (s : State) : Pseudo → Option (List TWord)
  | .fetch => some [encode .bump, rdWord s.rf.pc]
  | .ramon => some [wrWord 0x0000#16 0x0A#8]
  | .ramoff => some [wrWord 0x0000#16 0x00#8]
  | .rombank n => rombankWords s.context n
  | .rambank n => rambankWords s.context n

end Sys2Proof.Machine
end

