-- ==== Sys2Proof/Machine/Text.lean ====
section
/-! DEFINITION. The textual form of a transaction (R116): addresses and 16-bit values as four hexadecimal digits, bytes
and masks as two, selectors by name, booleans as 0 or 1. Bus operations are all written `RD` or `WR`. -/

namespace Sys2Proof.Machine

/-- One hexadecimal digit. -/
def hexDigit (n : Nat) : Char := "0123456789ABCDEF".toList.getD n '?'

/-- The last `k` hexadecimal digits of `n`. -/
def hexDigits : Nat → Nat → List Char
  | 0, _ => []
  | k + 1, n => hexDigits k (n / 16) ++ [hexDigit (n % 16)]

/-- Two digits with `0x`. -/
def byteText (v : Byte) : String := String.ofList ('0' :: 'x' :: hexDigits 2 v.toNat)

/-- Four digits with `0x`. -/
def wordText (v : Word) : String := String.ofList ('0' :: 'x' :: hexDigits 4 v.toNat)

/-- `b` as 0 or 1. -/
def boolText (b : Bool) : String := if b then "1" else "0"

/-- One of `A B C D E F H L`. -/
def regText : Reg8 → String
  | .a => "A" | .b => "B" | .c => "C" | .d => "D" | .e => "E" | .f => "F" | .h => "H" | .l => "L"

/-- One of `AF BC DE HL SP PC`. -/
def viewText : View16 → String
  | .af => "AF" | .bc => "BC" | .de => "DE" | .hl => "HL" | .sp => "SP" | .pc => "PC"

/-- One of `HALTED STOPPED IME`. -/
def latchText : Latch → String
  | .halted => "HALTED" | .stopped => "STOPPED" | .ime => "IME"

/-- R116 on the port's signals: `RD addr`, `WR addr, val`. -/
def busText (wr : Bool) (addr : Word) (v : Byte) : String :=
  if wr then "WR " ++ wordText addr ++ ", " ++ byteText v else "RD " ++ wordText addr

/-- R116. -/
def instrText (i : Instr) : String :=
  match i with
  | .rd8 r => "RD8 " ++ regText r
  | .wr8 r v => "WR8 " ++ regText r ++ ", " ++ byteText v
  | .rd16 p => "RD16 " ++ viewText p
  | .wr16 p v => "WR16 " ++ viewText p ++ ", " ++ wordText v
  | .bump => "BUMP"
  | .inchl => "INCHL"
  | .dechl => "DECHL"
  | .ftest m => "FTEST " ++ byteText m
  | .fset m => "FSET " ++ byteText m
  | .fclr m => "FCLR " ++ byteText m
  | .fput m b => "FPUT " ++ byteText m ++ ", " ++ boolText b
  | .rdctl c => "RDCTL " ++ latchText c
  | .wrctl c b => "WRCTL " ++ latchText c ++ ", " ++ boolText b
  | .rdIe => busText false 0xFFFF#16 0#8
  | .rdRom0 a | .rdRomx a | .rdGap8 a | .rdXram a | .rdWram a => busText false a 0#8
  | .rdHram a | .rdIo a | .rdGapfe a | .rdEcho a => busText false a 0#8
  | .wrMbc1Ramen a v | .wrMbc1Romb a v | .wrMbc1Rombhi a v | .wrMbc1Ramb a v | .wrMbc1Mode a v => busText true a v
  | .wrMbc2Ramtog a v | .wrMbc2Nop0 a v | .wrMbc2Romb a v | .wrMbc2Nop2 a v | .wrMbc2Nop4 a v => busText true a v
  | .wrMbc3Ramen a v | .wrMbc3Romb a v | .wrMbc3Ramb a v | .wrMbc3Rtclatch a v => busText true a v
  | .wrMbc5Ramen a v | .wrMbc5Romblo a v | .wrMbc5Rombhi a v | .wrMbc5Ramb a v | .wrMbc5Nop6 a v => busText true a v
  | .wrIe v => busText true 0xFFFF#16 v
  | .wrGap8 a v | .wrXram a v | .wrWram a v | .wrHram a v | .wrIo a v | .wrGapfe a v | .wrEcho a v => busText true a v

/-- R116: a result, in the width the operation returns: four digits for a 16-bit register, two for a byte, one digit for
a flag test or a latch. -/
def resultText (i : Instr) (w : Word) : String :=
  match i with
  | .ftest _ | .rdctl _ => boolText (w != 0#16)
  | .rd16 _ | .bump => wordText w
  | _ => byteText (w.setWidth 8)

/-- R116: one line of a trace, the result after `->`. -/
def lineText (i : Instr) (r : Reply) : String :=
  match r with
  | .nothing => instrText i
  | .reg w => instrText i ++ " -> " ++ resultText i w
  | .bus b => instrText i ++ " -> " ++ byteText b

end Sys2Proof.Machine
end

