-- ==== Sys2Proof/Safety.lean ====
section
/-! DEFINITION. The words the statements use: the invariant of a reachable state, reachability, and which operations
belong to which port or write what. -/

namespace Sys2Proof.Machine

/-- R23: F's low four bits are 0. -/
def RegisterFile.wf (g : RegisterFile) : Bool := g.f &&& 0x0F#8 == 0#8

/-- R33, R34, R36, R37, R242: the values the controller's registers hold under each variant. -/
def BankController.legal (variant : Variant) (m : BankController) : Bool :=
  match variant with
  | .mbc1 => decide (m.romBank.toNat ≤ 0x7F) && decide (m.romBank.toNat % 0x20 ≠ 0) && decide (m.ramBank.toNat ≤ 3)
  | .mbc2 => decide (m.romBank.toNat ≤ 0x0F) && decide (m.ramBank = 0#4) && decide (m.bankMode = .rom)
  | .mbc3 =>
    decide (1 ≤ m.romBank.toNat) && decide (m.romBank.toNat ≤ 0x7F) && decide (m.ramBank.toNat ≤ 3) &&
      decide (m.bankMode = .rom)
  | .mbc5 => decide (m.bankMode = .rom)

/-- The controller is legal and every buffer is canonical and inside its size (R28 to R30). -/
def AddressSpace.wf (cfg : Config) (sp : AddressSpace) : Bool :=
  sp.mbc.legal cfg.variant && Memory.fits cfg.xramSize sp.xram && Memory.fits wramSize sp.wram &&
    Memory.fits hramSize sp.hram

/-- The invariant: it holds right after reset and every step keeps it. -/
def State.inv (s : State) : Bool := s.cfg.wf && s.rf.wf && s.bus.wf s.cfg

/-- `State.inv` as a proposition. -/
abbrev State.Inv (s : State) : Prop := s.inv = true

/-- R7: the states of the runs of the block with configuration `cfg`. -/
inductive Reachable (cfg : Config) : State → Prop where
  | reset : Reachable cfg (State.resetOf cfg)
  | transact {s s' : State} (t : TWord) : Reachable cfg s → transact t s = .next s' → Reachable cfg s'

end Sys2Proof.Machine

namespace Sys2Proof

/-- The 13 operations of the register port. -/
def Instr.isRegOp : Instr → Bool
  | .rd8 _ | .wr8 _ _ | .rd16 _ | .wr16 _ _ | .bump | .inchl | .dechl => true
  | .ftest _ | .fset _ | .fclr _ | .fput _ _ | .rdctl _ | .wrctl _ _ => true
  | .rdRom0 _ | .rdRomx _ | .rdGap8 _ | .rdXram _ | .rdWram _ | .rdIe | .rdHram _ | .rdIo _ | .rdGapfe _
  | .rdEcho _ => false
  | .wrMbc1Ramen _ _ | .wrMbc1Romb _ _ | .wrMbc1Rombhi _ _ | .wrMbc1Ramb _ _ | .wrMbc1Mode _ _ => false
  | .wrMbc2Ramtog _ _ | .wrMbc2Nop0 _ _ | .wrMbc2Romb _ _ | .wrMbc2Nop2 _ _ | .wrMbc2Nop4 _ _ => false
  | .wrMbc3Ramen _ _ | .wrMbc3Romb _ _ | .wrMbc3Ramb _ _ | .wrMbc3Rtclatch _ _ => false
  | .wrMbc5Ramen _ _ | .wrMbc5Romblo _ _ | .wrMbc5Rombhi _ _ | .wrMbc5Ramb _ _ | .wrMbc5Nop6 _ _ => false
  | .wrGap8 _ _ | .wrXram _ _ | .wrWram _ _ | .wrIe _ | .wrHram _ _ | .wrIo _ _ | .wrGapfe _ _ | .wrEcho _ _ => false

/-- The 19 control writes. -/
def Instr.isControl : Instr → Bool
  | .wrMbc1Ramen _ _ | .wrMbc1Romb _ _ | .wrMbc1Rombhi _ _ | .wrMbc1Ramb _ _ | .wrMbc1Mode _ _ => true
  | .wrMbc2Ramtog _ _ | .wrMbc2Nop0 _ _ | .wrMbc2Romb _ _ | .wrMbc2Nop2 _ _ | .wrMbc2Nop4 _ _ => true
  | .wrMbc3Ramen _ _ | .wrMbc3Romb _ _ | .wrMbc3Ramb _ _ | .wrMbc3Rtclatch _ _ => true
  | .wrMbc5Ramen _ _ | .wrMbc5Romblo _ _ | .wrMbc5Rombhi _ _ | .wrMbc5Ramb _ _ | .wrMbc5Nop6 _ _ => true
  | .rd8 _ | .wr8 _ _ | .rd16 _ | .wr16 _ _ | .bump | .inchl | .dechl => false
  | .ftest _ | .fset _ | .fclr _ | .fput _ _ | .rdctl _ | .wrctl _ _ => false
  | .rdRom0 _ | .rdRomx _ | .rdGap8 _ | .rdXram _ | .rdWram _ | .rdIe | .rdHram _ | .rdIo _ | .rdGapfe _
  | .rdEcho _ => false
  | .wrGap8 _ _ | .wrXram _ _ | .wrWram _ _ | .wrIe _ | .wrHram _ _ | .wrIo _ _ | .wrGapfe _ _ | .wrEcho _ _ => false

end Sys2Proof
end

