-- ==== Sys2Proof/Certificates/Slice0/Obligations.lean ====
section
/-! DEFINITION. The statements for the provers. Each docstring names the rule or section of spec/ it formalises. Where a
statement gives a next state as a record, every field the record does not name is unchanged: that is the instruction's
frame, memory included. -/

section
open Sys2Proof Sys2Proof.Machine

/-! ### Reset -/

/-- R40: the post-boot values, the four views, the four flags, and the first `BUMP`; for every configuration. -/
def Obligations.ResetHoldsPostBootRegisters : Prop :=
  ∀ cfg : Config,
    (∀ r, (State.resetOf cfg).rf.read8 r =
      match r with
      | .a => 0x01#8 | .f => 0x00#8 | .b => 0x00#8 | .c => 0x13#8
      | .d => 0x00#8 | .e => 0xD8#8 | .h => 0x01#8 | .l => 0x4D#8) ∧
    (∀ p, (State.resetOf cfg).rf.read16 p =
      match p with
      | .af => 0x0100#16 | .bc => 0x0013#16 | .de => 0x00D8#16 | .hl => 0x014D#16
      | .sp => 0xFFFE#16 | .pc => 0x0100#16) ∧
    (∀ m ∈ [flagZ, flagN, flagH, flagC], flagsTest (State.resetOf cfg).rf.f m = false) ∧
    ∃ t, exec .bump (State.resetOf cfg) = .next t ∧ t.reply = .reg 0x0100#16

/-- 92_eei_decisions.md D5, D6, D7 (the spec's own choices; 10_state.md section 4): the latches and the bank controller
at reset, for every configuration whose power-up table has no control write. -/
def Obligations.ResetSetsLatchesAndController : Prop :=
  ∀ cfg : Config, (∀ w ∈ cfg.powerupWrites, 0x8000 ≤ w.1.toNat) →
    (State.resetOf cfg).rf.halted = false ∧ (State.resetOf cfg).rf.stopped = false ∧
    (State.resetOf cfg).rf.ime = cfg.imeReset ∧
    (State.resetOf cfg).bus.mbc = ⟨1#9, 0#4, false, .rom⟩

/-- 70_reset_and_hazards.md section 1 (D8, D9, the spec's own choices): a power-up table that names only the I/O range
and 0xFFFF leaves every buffer at its parameter, and `ie` at the last value the table has for 0xFFFF. -/
def Obligations.PowerupIoWritesStoreNothing : Prop :=
  ∀ cfg : Config,
    (∀ w ∈ cfg.powerupWrites, (0xFF00 ≤ w.1.toNat ∧ w.1.toNat ≤ 0xFF7F) ∨ w.1.toNat = 0xFFFF) →
    (State.resetOf cfg).bus.xram = cfg.xramInit ∧ (State.resetOf cfg).bus.wram = cfg.wramInit ∧
    (State.resetOf cfg).bus.hram = cfg.hramInit ∧
    (State.resetOf cfg).bus.ie =
      (((cfg.powerupWrites.filter (fun w => w.1 = 0xFFFF#16)).map Prod.snd).getLast?).getD cfg.ieReset

/-- 10_state.md sections 1 to 4 (R23, R37) and 42_mbc.md section 6 (R241): the invariant `State.Inv` holds of
`State.reset`, and of the reset state of every well-formed configuration. That the controller starts legal rests on its
reset values (the spec's own decision D7; log entry 9), that control writes in the power-up table keep it so on D10 and D9
(log entries 10 and 26); the canonical form of the buffers is the model's own (log entries 6 and 25). -/
def Obligations.ResetMeetsInvariant : Prop :=
  State.reset.Inv ∧ ∀ cfg : Config, cfg.wf = true → (State.resetOf cfg).Inv

/-- R4: no transaction changes the configuration, and the reset state carries the one it was made with. -/
def Obligations.ConfigurationNeverChanges : Prop :=
  (∀ s t : State, step s = .next t → t.cfg = s.cfg) ∧
  (∀ cfg : Config, (State.resetOf cfg).cfg = cfg) ∧
  ∀ (cfg : Config) (s : State), Reachable cfg s → s.cfg = cfg

/-! ### The register port -/

/-- R130: encoding, result, no state change; `RD8 F` has bits 3:0 clear. -/
def Obligations.Rd8ReturnsRegister : Prop :=
  ∀ (r : Reg8) (s : State),
    encode (.rd8 r) = (0x80000000#32 ||| (r.code.setWidth 32 <<< 20)) ∧
    ∃ w : Word, exec (.rd8 r) s = .next { s with reply := .reg w } ∧ w.toNat = (s.rf.read8 r).toNat ∧
      (s.Inv → r = .f → w.toNat % 16 = 0)

/-- 40_regfile_ops.md section 1, `WR8`; the masking of F is the spec's own decision D4 (log entry 8). -/
def Obligations.Wr8WritesOneRegister : Prop :=
  ∀ (r : Reg8) (v : Byte) (s : State), ∃ g : RegisterFile,
    exec (.wr8 r v) s = .next { s with rf := g, reply := .nothing } ∧
    g.read8 r = (if r = .f then v &&& 0xF0#8 else v) ∧
    (∀ q, q ≠ r → g.read8 q = s.rf.read8 q) ∧
    g.sp = s.rf.sp ∧ g.pc = s.rf.pc ∧ ∀ c, g.latch c = s.rf.latch c

/-- 40_regfile_ops.md section 1, `RD16`; access to SP and PC is the spec's own decision D14. -/
def Obligations.Rd16ConcatenatesHalves : Prop :=
  ∀ (p : View16) (s : State), ∃ w : Word, exec (.rd16 p) s = .next { s with reply := .reg w } ∧
    match p with
    | .af => w.toNat = s.rf.a.toNat * 256 + s.rf.f.toNat
    | .bc => w.toNat = s.rf.b.toNat * 256 + s.rf.c.toNat
    | .de => w.toNat = s.rf.d.toNat * 256 + s.rf.e.toNat
    | .hl => w.toNat = s.rf.h.toNat * 256 + s.rf.l.toNat
    | .sp => w = s.rf.sp
    | .pc => w = s.rf.pc

/-- 40_regfile_ops.md section 1, `WR16`; the masking of F is D4 (log entry 8), access to SP and PC is D14, both the
spec's own choices. -/
def Obligations.Wr16WritesBothHalves : Prop :=
  ∀ (p : View16) (v : Word) (s : State), ∃ g : RegisterFile,
    exec (.wr16 p v) s = .next { s with rf := g, reply := .nothing } ∧
    (match p with
    | .af => g.a.toNat = v.toNat / 256 ∧ g.f.toNat = v.toNat % 256 / 16 * 16 ∧ g = { s.rf with a := g.a, f := g.f }
    | .bc => g.b.toNat = v.toNat / 256 ∧ g.c.toNat = v.toNat % 256 ∧ g = { s.rf with b := g.b, c := g.c }
    | .de => g.d.toNat = v.toNat / 256 ∧ g.e.toNat = v.toNat % 256 ∧ g = { s.rf with d := g.d, e := g.e }
    | .hl => g.h.toNat = v.toNat / 256 ∧ g.l.toNat = v.toNat % 256 ∧ g = { s.rf with h := g.h, l := g.l }
    | .sp => g = { s.rf with sp := v }
    | .pc => g = { s.rf with pc := v }) ∧
    (g.read16 p).toNat = (if p = .af then v.toNat / 16 * 16 else v.toNat)

/-- R134: the result is the PC before the increment; the PC wraps at 0xFFFF; nothing else changes and no bus read is
made. -/
def Obligations.BumpReturnsAndAdvancesPc : Prop :=
  encode .bump = 0x84000000#32 ∧
  ∀ s : State, ∃ p : Word,
    exec .bump s = .next { s with rf := { s.rf with pc := p }, reply := .reg s.rf.pc } ∧
    p.toNat = (s.rf.pc.toNat + 1) % 0x10000

/-- 40_regfile_ops.md section 2, `INCHL` and `DECHL`: 16-bit arithmetic on HL, no result, F unchanged (the wrap of H, the
missing result and the untouched flags are the spec's own decision D15). -/
def Obligations.HlStepsAreSixteenBit : Prop :=
  ∀ s : State,
    (∃ h l : Byte, exec .inchl s = .next { s with rf := { s.rf with h := h, l := l }, reply := .nothing } ∧
      h.toNat * 256 + l.toNat = (s.rf.h.toNat * 256 + s.rf.l.toNat + 1) % 0x10000) ∧
    (∃ h l : Byte, exec .dechl s = .next { s with rf := { s.rf with h := h, l := l }, reply := .nothing } ∧
      h.toNat * 256 + l.toNat = (s.rf.h.toNat * 256 + s.rf.l.toNat + 0xFFFF) % 0x10000)

/-- 40_regfile_ops.md section 3, `FTEST` (the operation is the spec's own decision D4): 1 when any flag of the mask is
set; the mask's low nibble selects nothing. -/
def Obligations.FtestIsAnyFlagOfMask : Prop :=
  ∀ (m : Byte) (s : State), ∃ w : Word,
    exec (.ftest m) s = .next { s with reply := .reg w } ∧ (w = 0#16 ∨ w = 1#16) ∧
    (w = 1#16 ↔ ∃ i, i < 8 ∧ s.rf.f.getLsbD i = true ∧ m.getLsbD i = true) ∧
    (s.Inv → m &&& 0xF0#8 = 0#8 → w = 0#16)

/-- 40_regfile_ops.md section 3, `FSET`, `FCLR`, `FPUT` (the operations and the masking are the spec's own decision D4,
log entry 8), flag by flag; bits 3:0 of F are stored as 0; A and everything else is unchanged. -/
def Obligations.FlagWritersActBitwise : Prop :=
  ∀ (m : Byte) (b : Bool) (s : State),
    (∃ f : Byte, exec (.fset m) s = .next { s with rf := { s.rf with f := f }, reply := .nothing } ∧
      ∀ i, i < 8 → f.getLsbD i = (decide (4 ≤ i) && (s.rf.f.getLsbD i || m.getLsbD i))) ∧
    (∃ f : Byte, exec (.fclr m) s = .next { s with rf := { s.rf with f := f }, reply := .nothing } ∧
      ∀ i, i < 8 → f.getLsbD i = (decide (4 ≤ i) && (s.rf.f.getLsbD i && !m.getLsbD i))) ∧
    (∃ f : Byte, exec (.fput m b) s = .next { s with rf := { s.rf with f := f }, reply := .nothing } ∧
      ∀ i, i < 8 → f.getLsbD i = (decide (4 ≤ i) && (if m.getLsbD i then b else s.rf.f.getLsbD i)))

/-- R141, R142: encoding and effect of the latch operations, for each of the three latches. -/
def Obligations.LatchesReadAndWrite : Prop :=
  ∀ (b : Bool) (s : State),
    (∀ c : Latch, encode (.rdctl c) = (0x8C000000#32 ||| (c.code.setWidth 32 <<< 20)) ∧
      encode (.wrctl c b) = (0x8D000000#32 ||| (c.code.setWidth 32 <<< 20) ||| (if b then 1#32 else 0#32))) ∧
    exec (.rdctl .halted) s = .next { s with reply := .reg (if s.rf.halted then 1#16 else 0#16) } ∧
    exec (.rdctl .stopped) s = .next { s with reply := .reg (if s.rf.stopped then 1#16 else 0#16) } ∧
    exec (.rdctl .ime) s = .next { s with reply := .reg (if s.rf.ime then 1#16 else 0#16) } ∧
    exec (.wrctl .halted b) s = .next { s with rf := { s.rf with halted := b }, reply := .nothing } ∧
    exec (.wrctl .stopped b) s = .next { s with rf := { s.rf with stopped := b }, reply := .nothing } ∧
    exec (.wrctl .ime b) s = .next { s with rf := { s.rf with ime := b }, reply := .nothing }

/-- R26: no transaction is blocked by a latch, none but `RDCTL` looks at one, none but `WRCTL` changes one. -/
def Obligations.LatchesGateNothing : Prop :=
  ∀ (i : Instr) (s : State) (halted stopped ime : Bool), ∃ t t' : State,
    exec i s = .next t ∧
    exec i { s with rf := { s.rf with halted := halted, stopped := stopped, ime := ime } } = .next t' ∧
    t'.bus = t.bus ∧ (∀ r, t'.rf.read8 r = t.rf.read8 r) ∧ t'.rf.sp = t.rf.sp ∧ t'.rf.pc = t.rf.pc ∧
    ((∀ c, i ≠ .rdctl c) → t'.reply = t.reply) ∧
    (∀ c, (∀ b, i ≠ .wrctl c b) → t.rf.latch c = s.rf.latch c)

/-- 40_regfile_ops.md section 5 (R145, a rule the spec marks derived) and 10_state.md section 1.3: F changes only by
`WR8 F`, `WR16 AF`, `FSET`, `FCLR` and `FPUT`; SP only by `WR16 SP` (direct access to SP is the spec's own decision
D14). -/
def Obligations.OnlyExplicitWritersChangeFAndSp : Prop :=
  ∀ (i : Instr) (s t : State), exec i s = .next t →
    ((∀ v, i ≠ .wr8 .f v) → (∀ v, i ≠ .wr16 .af v) → (∀ m, i ≠ .fset m) → (∀ m, i ≠ .fclr m) →
      (∀ m b, i ≠ .fput m b) → t.rf.f = s.rf.f) ∧
    t.rf.sp = match i with
      | .wr16 .sp v => v
      | _ => s.rf.sp

/-- 40_regfile_ops.md section 5 (R147): PC changes only by `BUMP`, which advances it, and by `WR16 PC`, which takes any
target (direct access to PC is the spec's own decision D14; log entry 21); it starts at 0x0100. -/
def Obligations.OnlyBumpAndWr16ChangePc : Prop :=
  (∀ (i : Instr) (s t : State), exec i s = .next t →
    t.rf.pc = match i with
      | .bump => s.rf.pc + 1#16
      | .wr16 .pc v => v
      | _ => s.rf.pc) ∧
  (∀ (s : State) (target : Word), ∃ t, exec (.wr16 .pc target) s = .next t ∧ t.rf.pc = target) ∧
  ∀ cfg : Config, (State.resetOf cfg).rf.pc = 0x0100#16

/-- R144: a register operation leaves AddressSpace as it is, and neither its result nor its effect depends on it. The
other direction of R1 is stated with it: a bus operation leaves RegisterFile as it is and does not depend on it. -/
def Obligations.PortsAreUncoupled : Prop :=
  (∀ (i : Instr) (s t : State), exec i s = .next t →
    (i.isRegOp = true → t.bus = s.bus) ∧ (i.isRegOp = false → t.rf = s.rf)) ∧
  (∀ (i : Instr) (s s' t t' : State), exec i s = .next t → exec i s' = .next t' →
    (i.isRegOp = true → s.rf = s'.rf → t.rf = t'.rf ∧ t.reply = t'.reply) ∧
    (i.isRegOp = false → s.bus = s'.bus → s.cfg = s'.cfg → t.bus = t'.bus ∧ t.reply = t'.reply))

/-- R64: every bus transaction completes; a read returns a byte and changes nothing, a write returns nothing. The first
clause says of every operation, those of the register port included (part of R146), that it completes. -/
def Obligations.EveryOperationCompletes : Prop :=
  (∀ (i : Instr) (s : State), ∃ t, exec i s = .next t) ∧
  (∀ (s : State) (addr : Word), ∃ b : Byte, step (s.present (rdWord addr)) = .next { s with reply := .bus b }) ∧
  (∀ (s : State) (addr : Word) (v : Byte), ∃ sp : AddressSpace,
    step (s.present (wrWord addr v)) = .next { s with bus := sp, reply := .nothing })

/-! ### Bus reads -/

/-- 41_bus_router.md section 1 (R171), `RD.ROM0`: the window shows bank 0 whatever the controller holds; beyond the image
it reads 0xFF, without wrapping (the spec's own decision D11; log entry 11). -/
def Obligations.Rom0ReadIsFixedBank : Prop :=
  ∀ (addr : Word) (s : State), addr.extractLsb' 14 2 = 0#2 →
    decodePort s.context (.bus false addr 0#8) = .ok (.rdRom0 addr) ∧
    (addr.toNat < s.cfg.romLen →
      exec (.rdRom0 addr) s = .next { s with reply := .bus (Memory.read s.cfg.rom addr.toNat) }) ∧
    (s.cfg.romLen ≤ addr.toNat → exec (.rdRom0 addr) s = .next { s with reply := .bus 0xFF#8 })

/-- 41_bus_router.md section 1, `RD.ROMX`: the byte of bank `rom_bank`; beyond the image 0xFF, without wrapping (the
spec's own decision D11). -/
def Obligations.RomxReadIsSelectedBank : Prop :=
  ∀ (addr : Word) (s : State), addr.extractLsb' 14 2 = 1#2 →
    decodePort s.context (.bus false addr 0#8) = .ok (.rdRomx addr) ∧
    (addr.toNat - 0x4000 + s.bus.mbc.romBank.toNat * 0x4000 < s.cfg.romLen →
      exec (.rdRomx addr) s = .next { s with
        reply := .bus (Memory.read s.cfg.rom (addr.toNat - 0x4000 + s.bus.mbc.romBank.toNat * 0x4000)) }) ∧
    (s.cfg.romLen ≤ addr.toNat - 0x4000 + s.bus.mbc.romBank.toNat * 0x4000 →
      exec (.rdRomx addr) s = .next { s with reply := .bus 0xFF#8 })

/-- 41_bus_router.md section 1, `RD.XRAM`: the byte of bank `ram_bank` if enabled and in range, else 0xFF (no wrap: the
spec's own decision D11; unmasked under MBC2: D18). -/
def Obligations.XramReadIsGated : Prop :=
  ∀ (addr : Word) (s : State), addr.extractLsb' 13 3 = 5#3 →
    decodePort s.context (.bus false addr 0#8) = .ok (.rdXram addr) ∧
    (s.bus.mbc.ramEnabled = false → exec (.rdXram addr) s = .next { s with reply := .bus 0xFF#8 }) ∧
    (s.cfg.xramSize ≤ addr.toNat - 0xA000 + s.bus.mbc.ramBank.toNat * 0x2000 →
      exec (.rdXram addr) s = .next { s with reply := .bus 0xFF#8 }) ∧
    (s.bus.mbc.ramEnabled = true → addr.toNat - 0xA000 + s.bus.mbc.ramBank.toNat * 0x2000 < s.cfg.xramSize →
      exec (.rdXram addr) s = .next { s with
        reply := .bus (Memory.read s.bus.xram (addr.toNat - 0xA000 + s.bus.mbc.ramBank.toNat * 0x2000)) })

/-- R174, R175: work RAM and its mirror read the same cells; the mirror ends at 0xFDFF, and no read at or above 0xFE00 is
one of the mirror. -/
def Obligations.WramAndEchoReadSameCells : Prop :=
  ∀ (addr : Word) (s : State),
    (addr.extractLsb' 13 3 = 6#3 →
      decodePort s.context (.bus false addr 0#8) = .ok (.rdWram addr) ∧ addr.toNat - 0xC000 < 8192 ∧
      exec (.rdWram addr) s = .next { s with reply := .bus (Memory.read s.bus.wram (addr.toNat - 0xC000)) }) ∧
    (addr.extractLsb' 13 3 = 7#3 → addr.toNat ≤ 0xFDFF →
      decodePort s.context (.bus false addr 0#8) = .ok (.rdEcho addr) ∧
      exec (.rdEcho addr) s =
        .next { s with reply := .bus (Memory.read s.bus.wram ((addr.toNat - 0x2000) - 0xC000)) }) ∧
    (0xFE00 ≤ addr.toNat → ∀ a : Word, decodePort s.context (.bus false addr 0#8) ≠ .ok (.rdEcho a))

/-- R176, R177: scratch RAM, which neither 0xFF7F nor any address below it nor 0xFFFF is part of, and the
interrupt-enable byte. -/
def Obligations.HramAndIeRead : Prop :=
  ∀ (addr : Word) (s : State),
    (addr.extractLsb' 7 9 = 0x1FF#9 → addr ≠ 0xFFFF#16 →
      decodePort s.context (.bus false addr 0#8) = .ok (.rdHram addr) ∧ addr.toNat - 0xFF80 < 127 ∧
      exec (.rdHram addr) s = .next { s with reply := .bus (Memory.read s.bus.hram (addr.toNat - 0xFF80)) }) ∧
    (addr.toNat ≤ 0xFF7F ∨ addr = 0xFFFF#16 →
      ∀ a : Word, decodePort s.context (.bus false addr 0#8) ≠ .ok (.rdHram a)) ∧
    encode .rdIe = 0x00FFFF00#32 ∧
    decodePort s.context (.bus false 0xFFFF#16 0#8) = .ok .rdIe ∧
    exec .rdIe s = .next { s with reply := .bus s.bus.ie }

/-- R178: the three fallback ranges read 0xFF. -/
def Obligations.FallbackReadsAreOpenBus : Prop :=
  ∀ (addr : Word) (s : State),
    (addr.extractLsb' 13 3 = 4#3 → decodePort s.context (.bus false addr 0#8) = .ok (.rdGap8 addr) ∧
      exec (.rdGap8 addr) s = .next { s with reply := .bus 0xFF#8 }) ∧
    (addr.extractLsb' 8 8 = 0xFE#8 → decodePort s.context (.bus false addr 0#8) = .ok (.rdGapfe addr) ∧
      exec (.rdGapfe addr) s = .next { s with reply := .bus 0xFF#8 }) ∧
    (addr.extractLsb' 7 9 = 0x1FE#9 → decodePort s.context (.bus false addr 0#8) = .ok (.rdIo addr) ∧
      exec (.rdIo addr) s = .next { s with reply := .bus 0xFF#8 })

/-- R170: the word of a bus read, the branch each address takes, and that the read answers the byte of that branch
(`memRead`) and changes no state. -/
def Obligations.ReadDispatchFollowsAddress : Prop :=
  ∀ (addr : Word) (ctx : Context),
    rdWord addr = addr.setWidth 32 <<< 8 ∧
    decode ctx (rdWord addr) = .ok (
      if addr.toNat ≤ 0x3FFF then .rdRom0 addr
      else if addr.toNat ≤ 0x7FFF then .rdRomx addr
      else if addr.toNat ≤ 0x9FFF then .rdGap8 addr
      else if addr.toNat ≤ 0xBFFF then .rdXram addr
      else if addr.toNat ≤ 0xDFFF then .rdWram addr
      else if addr.toNat ≤ 0xFDFF then .rdEcho addr
      else if addr.toNat ≤ 0xFEFF then .rdGapfe addr
      else if addr.toNat ≤ 0xFF7F then .rdIo addr
      else if addr.toNat ≤ 0xFFFE then .rdHram addr
      else .rdIe) ∧
    ∀ s : State, step (s.present (rdWord addr)) = .next { s with reply := .bus (memRead s.cfg s.bus addr) }

/-- R62: a bus read changes no state, and any number of reads later the same address reads the same. -/
def Obligations.ReadsHaveNoSideEffect : Prop :=
  ∀ (addr : Word) (others : List Word) (s : State), ∃ b : Byte,
    step (s.present (rdWord addr)) = .next { s with reply := .bus b } ∧
    ∃ t : State, runWords (others.map rdWord) s = .next t ∧ t.rf = s.rf ∧ t.bus = s.bus ∧ t.cfg = s.cfg ∧
      step (t.present (rdWord addr)) = .next { s with reply := .bus b }

/-! ### Bus writes -/

/-- R183, R184: a write to work RAM or its mirror stores into one cell, the same for both windows. -/
def Obligations.WramAndEchoWriteOneCell : Prop :=
  ∀ (addr : Word) (v : Byte) (s : State), s.Inv →
    (addr.extractLsb' 13 3 = 6#3 →
      decodePort s.context (.bus true addr v) = .ok (.wrWram addr v) ∧
      ∃ w : Machine.Memory,
        exec (.wrWram addr v) s = .next { s with bus := { s.bus with wram := w }, reply := .nothing } ∧
        Memory.read w (addr.toNat - 0xC000) = v ∧
        ∀ j, j ≠ addr.toNat - 0xC000 → Memory.read w j = Memory.read s.bus.wram j) ∧
    (addr.extractLsb' 13 3 = 7#3 → addr.toNat ≤ 0xFDFF →
      decodePort s.context (.bus true addr v) = .ok (.wrEcho addr v) ∧
      ∃ w : Machine.Memory,
        exec (.wrEcho addr v) s = .next { s with bus := { s.bus with wram := w }, reply := .nothing } ∧
        Memory.read w ((addr.toNat - 0x2000) - 0xC000) = v ∧
        ∀ j, j ≠ (addr.toNat - 0x2000) - 0xC000 → Memory.read w j = Memory.read s.bus.wram j)

/-- R185, R186: a write to scratch RAM stores into one cell; a write to 0xFFFF stores all 8 bits of `ie` and leaves `ime`
alone. -/
def Obligations.HramAndIeWrite : Prop :=
  ∀ (addr : Word) (v : Byte) (s : State), s.Inv →
    (addr.extractLsb' 7 9 = 0x1FF#9 → addr ≠ 0xFFFF#16 →
      decodePort s.context (.bus true addr v) = .ok (.wrHram addr v) ∧
      ∃ w : Machine.Memory,
        exec (.wrHram addr v) s = .next { s with bus := { s.bus with hram := w }, reply := .nothing } ∧
        Memory.read w (addr.toNat - 0xFF80) = v ∧
        ∀ j, j ≠ addr.toNat - 0xFF80 → Memory.read w j = Memory.read s.bus.hram j) ∧
    encode (.wrIe v) = (0x01FFFF00#32 ||| v.setWidth 32) ∧
    decodePort s.context (.bus true 0xFFFF#16 v) = .ok (.wrIe v) ∧
    exec (.wrIe v) s = .next { s with bus := { s.bus with ie := v }, reply := .nothing }

/-- 41_bus_router.md section 2, `WR.XRAM`: discarded while disabled or out of range (no wrap: the spec's own decision
D11), else one cell takes the byte, its low nibble under MBC2. -/
def Obligations.XramWriteIsGatedAndMasked : Prop :=
  ∀ (addr : Word) (v : Byte) (s : State), s.Inv → addr.extractLsb' 13 3 = 5#3 →
    decodePort s.context (.bus true addr v) = .ok (.wrXram addr v) ∧
    (s.bus.mbc.ramEnabled = false → exec (.wrXram addr v) s = .next { s with reply := .nothing }) ∧
    (s.cfg.xramSize ≤ addr.toNat - 0xA000 + s.bus.mbc.ramBank.toNat * 0x2000 →
      exec (.wrXram addr v) s = .next { s with reply := .nothing }) ∧
    (s.bus.mbc.ramEnabled = true → addr.toNat - 0xA000 + s.bus.mbc.ramBank.toNat * 0x2000 < s.cfg.xramSize →
      ∃ x : Machine.Memory,
        exec (.wrXram addr v) s = .next { s with bus := { s.bus with xram := x }, reply := .nothing } ∧
        (Memory.read x (addr.toNat - 0xA000 + s.bus.mbc.ramBank.toNat * 0x2000)).toNat =
          (if s.cfg.variant = .mbc2 then v.toNat % 16 else v.toNat) ∧
        ∀ j, j ≠ addr.toNat - 0xA000 + s.bus.mbc.ramBank.toNat * 0x2000 →
          Memory.read x j = Memory.read s.bus.xram j)

/-- R187: a write to a fallback range changes nothing, and a read there still returns 0xFF. -/
def Obligations.FallbackWritesAreNoOps : Prop :=
  ∀ (addr : Word) (v : Byte) (s : State),
    (addr.extractLsb' 13 3 = 4#3 → decodePort s.context (.bus true addr v) = .ok (.wrGap8 addr v) ∧
      exec (.wrGap8 addr v) s = .next { s with reply := .nothing } ∧ memRead s.cfg s.bus addr = 0xFF#8) ∧
    (addr.extractLsb' 8 8 = 0xFE#8 → decodePort s.context (.bus true addr v) = .ok (.wrGapfe addr v) ∧
      exec (.wrGapfe addr v) s = .next { s with reply := .nothing } ∧ memRead s.cfg s.bus addr = 0xFF#8) ∧
    (addr.extractLsb' 7 9 = 0x1FE#9 → decodePort s.context (.bus true addr v) = .ok (.wrIo addr v) ∧
      exec (.wrIo addr v) s = .next { s with reply := .nothing } ∧ memRead s.cfg s.bus addr = 0xFF#8)

/-- R109, R180: the word of a bus write, the operation it asks for under every variant and, for MBC1 at 0x4000–0x5FFF, in
every mode, and that the write is the one `memWrite` dispatches to. -/
def Obligations.WriteDispatchFollowsTable : Prop :=
  ∀ (addr : Word) (v : Byte) (ctx : Context),
    wrWord addr v = (0x01000000#32 ||| (addr.setWidth 32 <<< 8) ||| v.setWidth 32) ∧
    decode ctx (wrWord addr v) = .ok (
      if addr.toNat ≤ 0x1FFF then
        (match ctx.variant with
        | .mbc1 => .wrMbc1Ramen addr v
        | .mbc2 => if addr.toNat / 256 % 2 = 0 then .wrMbc2Ramtog addr v else .wrMbc2Nop0 addr v
        | .mbc3 => .wrMbc3Ramen addr v
        | .mbc5 => .wrMbc5Ramen addr v)
      else if addr.toNat ≤ 0x3FFF then
        (match ctx.variant with
        | .mbc1 => .wrMbc1Romb addr v
        | .mbc2 => if addr.toNat / 256 % 2 = 1 then .wrMbc2Romb addr v else .wrMbc2Nop2 addr v
        | .mbc3 => .wrMbc3Romb addr v
        | .mbc5 => if addr.toNat ≤ 0x2FFF then .wrMbc5Romblo addr v else .wrMbc5Rombhi addr v)
      else if addr.toNat ≤ 0x5FFF then
        (match ctx.variant, ctx.bankMode with
        | .mbc1, .rom => .wrMbc1Rombhi addr v
        | .mbc1, .ram => .wrMbc1Ramb addr v
        | .mbc2, _ => .wrMbc2Nop4 addr v
        | .mbc3, _ => .wrMbc3Ramb addr v
        | .mbc5, _ => .wrMbc5Ramb addr v)
      else if addr.toNat ≤ 0x7FFF then
        (match ctx.variant with
        | .mbc1 => .wrMbc1Mode addr v
        | .mbc2 => .wrMbc2Nop4 addr v
        | .mbc3 => .wrMbc3Rtclatch addr v
        | .mbc5 => .wrMbc5Nop6 addr v)
      else if addr.toNat ≤ 0x9FFF then .wrGap8 addr v
      else if addr.toNat ≤ 0xBFFF then .wrXram addr v
      else if addr.toNat ≤ 0xDFFF then .wrWram addr v
      else if addr.toNat ≤ 0xFDFF then .wrEcho addr v
      else if addr.toNat ≤ 0xFEFF then .wrGapfe addr v
      else if addr.toNat ≤ 0xFF7F then .wrIo addr v
      else if addr.toNat ≤ 0xFFFE then .wrHram addr v
      else .wrIe v) ∧
    ∀ s : State, step (s.present (wrWord addr v)) =
      .next { s with bus := memWrite s.cfg s.bus addr v, reply := .nothing }

/-- 30_encoding.md section 5 (R114): on the bus nothing is reserved, and the encodings the rule lists as no-ops change no
state (that an external RAM write out of range is discarded, not wrapped, is the spec's own decision D11; log entry 11). -/
def Obligations.BusHasNoIllegalAccess : Prop :=
  (∀ (ctx : Context) (wr : Bool) (addr : Word) (v : Byte), ∃ i : Instr, decodePort ctx (.bus wr addr v) = .ok i) ∧
  (∀ (addr : Word) (v : Byte) (s : State),
    exec (.wrGap8 addr v) s = .next { s with reply := .nothing } ∧
    exec (.wrGapfe addr v) s = .next { s with reply := .nothing } ∧
    exec (.wrIo addr v) s = .next { s with reply := .nothing } ∧
    (s.bus.mbc.ramEnabled = false ∨ s.cfg.xramSize ≤ xramIndex s.bus.mbc addr →
      exec (.wrXram addr v) s = .next { s with reply := .nothing }) ∧
    exec (.wrMbc2Nop0 addr v) s = .next { s with reply := .nothing } ∧
    exec (.wrMbc2Nop2 addr v) s = .next { s with reply := .nothing } ∧
    exec (.wrMbc2Nop4 addr v) s = .next { s with reply := .nothing } ∧
    exec (.wrMbc5Nop6 addr v) s = .next { s with reply := .nothing } ∧
    exec (.wrMbc3Rtclatch addr v) s = .next { s with reply := .nothing })

/-- 20_memory.md section 2 (R63), with the ranges of R61 and the index functions of R71, R73 and R74: the range of the
address alone says which region a bus write can change. In a buffer only the cell the address translates to can change,
in the controller only one register, of MBC1's and MBC5's `rom_bank` only one field; nothing changes in a fallback range,
nor in external RAM that is disabled or out of range (the spec's own decision D11; log entry 11). RegisterFile is never
changed. -/
def Obligations.WriteChangesAtMostOneRegion : Prop :=
  ∀ (addr : Word) (v : Byte) (s : State), s.Inv → ∃ sp : AddressSpace,
    step (s.present (wrWord addr v)) = .next { s with bus := sp, reply := .nothing } ∧
    (addr.toNat ≤ 0x7FFF → ∃ m : BankController, sp = { s.bus with mbc := m } ∧
      ((∃ r, m = { s.bus.mbc with romBank := r } ∧
          (s.cfg.variant = .mbc1 → r.toNat % 32 = s.bus.mbc.romBank.toNat % 32 ∨
            r.toNat / 32 = s.bus.mbc.romBank.toNat / 32) ∧
          (s.cfg.variant = .mbc5 → r.toNat % 256 = s.bus.mbc.romBank.toNat % 256 ∨
            r.toNat / 256 = s.bus.mbc.romBank.toNat / 256)) ∨
        (∃ r, m = { s.bus.mbc with ramBank := r }) ∨ (∃ e, m = { s.bus.mbc with ramEnabled := e }) ∨
        ∃ k, m = { s.bus.mbc with bankMode := k })) ∧
    (0x8000 ≤ addr.toNat → addr.toNat ≤ 0x9FFF → sp = s.bus) ∧
    (0xA000 ≤ addr.toNat → addr.toNat ≤ 0xBFFF →
      (∃ x : Machine.Memory, sp = { s.bus with xram := x } ∧
        ∀ j, j ≠ xramIndex s.bus.mbc addr → Memory.read x j = Memory.read s.bus.xram j) ∧
      (s.bus.mbc.ramEnabled = false ∨ s.cfg.xramSize ≤ xramIndex s.bus.mbc addr → sp = s.bus)) ∧
    (0xC000 ≤ addr.toNat → addr.toNat ≤ 0xFDFF → ∃ w : Machine.Memory, sp = { s.bus with wram := w } ∧
      ∀ j, j ≠ wramIndex addr → Memory.read w j = Memory.read s.bus.wram j) ∧
    (0xFE00 ≤ addr.toNat → addr.toNat ≤ 0xFF7F → sp = s.bus) ∧
    (0xFF80 ≤ addr.toNat → addr.toNat ≤ 0xFFFE → ∃ h : Machine.Memory, sp = { s.bus with hram := h } ∧
      ∀ j, j ≠ hramIndex addr → Memory.read h j = Memory.read s.bus.hram j) ∧
    (addr = 0xFFFF#16 → sp = { s.bus with ie := v })

/-- 41_bus_router.md section 3 (R188, a law the spec marks derived): a byte written through work RAM is read through the
mirror and the other way round. -/
def Obligations.MirrorLaw : Prop :=
  ∀ (a b : Word) (v : Byte) (s : State), s.Inv → 0xC000 ≤ a.toNat → a.toNat ≤ 0xDDFF → b = a + 0x2000#16 →
    results [wrWord a v, rdWord b] s = [.nothing, .bus v] ∧ results [wrWord b v, rdWord a] s = [.nothing, .bus v]

/-- 41_bus_router.md section 3 (R189, a law the spec marks derived): a storage address reads back what was written to it,
its low nibble in external RAM under MBC2. -/
def Obligations.StorageReadsBackWrite : Prop :=
  ∀ (a : Word) (v : Byte) (s : State), s.Inv →
    ((0xC000 ≤ a.toNat ∧ a.toNat ≤ 0xFDFF) ∨ 0xFF80 ≤ a.toNat →
      results [wrWord a v, rdWord a] s = [.nothing, .bus v]) ∧
    (0xA000 ≤ a.toNat → a.toNat ≤ 0xBFFF → s.bus.mbc.ramEnabled = true →
      a.toNat - 0xA000 + s.bus.mbc.ramBank.toNat * 0x2000 < s.cfg.xramSize →
      results [wrWord a v, rdWord a] s =
        [.nothing, .bus (if s.cfg.variant = .mbc2 then v &&& 0x0F#8 else v)])

/-- 20_memory.md section 5 (R78) and 41_bus_router.md section 3: a write to a storage or fallback address leaves the read
of every other address as it was, except the mirror of the same work RAM cell. -/
def Obligations.WriteLeavesOtherReadsAlone : Prop :=
  ∀ (a b : Word) (v : Byte) (s t : State), 0x8000 ≤ a.toNat → b ≠ a →
    ¬ (0xC000 ≤ a.toNat ∧ a.toNat ≤ 0xFDFF ∧ 0xC000 ≤ b.toNat ∧ b.toNat ≤ 0xFDFF ∧
        (b.toNat = a.toNat + 0x2000 ∨ a.toNat = b.toNat + 0x2000)) →
    step (s.present (wrWord a v)) = .next t → memRead t.cfg t.bus b = memRead s.cfg s.bus b

/-! ### Control writes -/

/-- R200: under MBC1, MBC3 and MBC5 only the low nibble decides, whatever the register held. -/
def Obligations.RamEnableByLowNibble : Prop :=
  ∀ (addr : Word) (v : Byte) (s : State),
    (addr.extractLsb' 13 3 = 0#3 →
      (s.cfg.variant = .mbc1 → decodePort s.context (.bus true addr v) = .ok (.wrMbc1Ramen addr v)) ∧
      (s.cfg.variant = .mbc3 → decodePort s.context (.bus true addr v) = .ok (.wrMbc3Ramen addr v)) ∧
      (s.cfg.variant = .mbc5 → decodePort s.context (.bus true addr v) = .ok (.wrMbc5Ramen addr v))) ∧
    ∃ m : BankController, m = { s.bus.mbc with ramEnabled := decide (v.toNat % 16 = 0xA) } ∧
      exec (.wrMbc1Ramen addr v) s = .next { s with bus := { s.bus with mbc := m }, reply := .nothing } ∧
      exec (.wrMbc3Ramen addr v) s = .next { s with bus := { s.bus with mbc := m }, reply := .nothing } ∧
      exec (.wrMbc5Ramen addr v) s = .next { s with bus := { s.bus with mbc := m }, reply := .nothing }

/-- 42_mbc.md section 2, `WR.MBC1.ROMB`: the low 5 bits, 0 coerced to 1 on the masked field (the spec's own decision
D10); bits 6:5 are kept. -/
def Obligations.Mbc1RomBankLowBits : Prop :=
  ∀ (addr : Word) (v : Byte) (s : State), s.bus.mbc.romBank.toNat ≤ 0x7F → ∃ r : BitVec 9,
    exec (.wrMbc1Romb addr v) s =
      .next { s with bus := { s.bus with mbc := { s.bus.mbc with romBank := r } }, reply := .nothing } ∧
    r.toNat / 32 = s.bus.mbc.romBank.toNat / 32 ∧
    r.toNat % 32 = (if v.toNat % 32 = 0 then 1 else v.toNat % 32)

/-- R202, R203: the 0x4000–0x5FFF write sets bits 6:5 of `rom_bank` in Rom mode and `ram_bank` in Ram mode. -/
def Obligations.Mbc1UpperBitsByMode : Prop :=
  ∀ (addr : Word) (v : Byte) (s : State), s.cfg.variant = .mbc1 → addr.extractLsb' 13 3 = 2#3 →
    (s.bus.mbc.bankMode = .rom →
      decodePort s.context (.bus true addr v) = .ok (.wrMbc1Rombhi addr v) ∧ ∃ r : BitVec 9,
        exec (.wrMbc1Rombhi addr v) s =
          .next { s with bus := { s.bus with mbc := { s.bus.mbc with romBank := r } }, reply := .nothing } ∧
        r.toNat % 32 = s.bus.mbc.romBank.toNat % 32 ∧ r.toNat / 32 = v.toNat % 4 ∧
        (s.Inv → r.toNat ≠ 0)) ∧
    (s.bus.mbc.bankMode = .ram →
      decodePort s.context (.bus true addr v) = .ok (.wrMbc1Ramb addr v) ∧ ∃ r : BitVec 4,
        exec (.wrMbc1Ramb addr v) s =
          .next { s with bus := { s.bus with mbc := { s.bus.mbc with ramBank := r } }, reply := .nothing } ∧
        r.toNat = v.toNat % 4)

/-- 42_mbc.md section 2, `WR.MBC1.MODE`: bit 0 selects the mode, 0 Rom and 1 Ram (the spec's own decision D13), and
nothing else changes (D23). -/
def Obligations.Mbc1ModeByBitZero : Prop :=
  ∀ (addr : Word) (v : Byte) (s : State),
    exec (.wrMbc1Mode addr v) s = .next { s with
      bus := { s.bus with mbc := { s.bus.mbc with bankMode := if v.toNat % 2 = 1 then .ram else .rom } },
      reply := .nothing }

/-- 42_mbc.md section 3 (R210, R212): under MBC2, address bit 8 clear toggles the RAM enable whatever the value (that the
value is ignored is the spec's own decision D18; log entry 19), and address bit 8 set takes the low 4 bits as the ROM bank,
0 included. -/
def Obligations.Mbc2ToggleAndRomBank : Prop :=
  ∀ (addr : Word) (v : Byte) (s : State),
    (s.cfg.variant = .mbc2 → addr.extractLsb' 13 3 = 0#3 → addr.getLsbD 8 = false →
      decodePort s.context (.bus true addr v) = .ok (.wrMbc2Ramtog addr v)) ∧
    (s.cfg.variant = .mbc2 → addr.extractLsb' 13 3 = 1#3 → addr.getLsbD 8 = true →
      decodePort s.context (.bus true addr v) = .ok (.wrMbc2Romb addr v)) ∧
    exec (.wrMbc2Ramtog addr v) s = .next { s with
      bus := { s.bus with mbc := { s.bus.mbc with ramEnabled := !s.bus.mbc.ramEnabled } }, reply := .nothing } ∧
    ∃ r : BitVec 9,
      exec (.wrMbc2Romb addr v) s =
        .next { s with bus := { s.bus with mbc := { s.bus.mbc with romBank := r } }, reply := .nothing } ∧
      r.toNat = v.toNat % 16

/-- 42_mbc.md section 4, `WR.MBC3.ROMB`: 7 bits at once, 0 coerced to 1 on the masked field (the spec's own decision
D10). -/
def Obligations.Mbc3RomBankCoercesZero : Prop :=
  ∀ (addr : Word) (v : Byte) (s : State), ∃ r : BitVec 9,
    exec (.wrMbc3Romb addr v) s =
      .next { s with bus := { s.bus with mbc := { s.bus.mbc with romBank := r } }, reply := .nothing } ∧
    r.toNat = (if v.toNat % 128 = 0 then 1 else v.toNat % 128)

/-- R222, R223: MBC3's RAM bank takes two bits and leaves `rom_bank`; the clock latch command is accepted and does
nothing. -/
def Obligations.Mbc3RamBankAndClockLatch : Prop :=
  ∀ (addr : Word) (v : Byte) (s : State),
    (s.cfg.variant = .mbc3 → addr.extractLsb' 13 3 = 2#3 →
      decodePort s.context (.bus true addr v) = .ok (.wrMbc3Ramb addr v)) ∧
    (s.cfg.variant = .mbc3 → addr.extractLsb' 13 3 = 3#3 →
      decodePort s.context (.bus true addr v) = .ok (.wrMbc3Rtclatch addr v)) ∧
    (∃ r : BitVec 4,
      exec (.wrMbc3Ramb addr v) s =
        .next { s with bus := { s.bus with mbc := { s.bus.mbc with ramBank := r } }, reply := .nothing } ∧
      r.toNat = v.toNat % 4) ∧
    exec (.wrMbc3Rtclatch addr v) s = .next { s with reply := .nothing }

/-- R231 to R234: MBC5's nine ROM bank bits in two writes, its four RAM bank bits, and its no-op. -/
def Obligations.Mbc5BankRegisters : Prop :=
  ∀ (addr : Word) (v : Byte) (s : State),
    (s.cfg.variant = .mbc5 →
      (addr.extractLsb' 12 4 = 2#4 → decodePort s.context (.bus true addr v) = .ok (.wrMbc5Romblo addr v)) ∧
      (addr.extractLsb' 12 4 = 3#4 → decodePort s.context (.bus true addr v) = .ok (.wrMbc5Rombhi addr v)) ∧
      (addr.extractLsb' 13 3 = 2#3 → decodePort s.context (.bus true addr v) = .ok (.wrMbc5Ramb addr v)) ∧
      (addr.extractLsb' 13 3 = 3#3 → decodePort s.context (.bus true addr v) = .ok (.wrMbc5Nop6 addr v))) ∧
    (∃ r : BitVec 9,
      exec (.wrMbc5Romblo addr v) s =
        .next { s with bus := { s.bus with mbc := { s.bus.mbc with romBank := r } }, reply := .nothing } ∧
      r.toNat / 256 = s.bus.mbc.romBank.toNat / 256 ∧ r.toNat % 256 = v.toNat) ∧
    (∃ r : BitVec 9,
      exec (.wrMbc5Rombhi addr v) s =
        .next { s with bus := { s.bus with mbc := { s.bus.mbc with romBank := r } }, reply := .nothing } ∧
      r.toNat % 256 = s.bus.mbc.romBank.toNat % 256 ∧ r.toNat / 256 = v.toNat % 2) ∧
    (∃ r : BitVec 4,
      exec (.wrMbc5Ramb addr v) s =
        .next { s with bus := { s.bus with mbc := { s.bus.mbc with ramBank := r } }, reply := .nothing } ∧
      r.toNat = v.toNat % 16) ∧
    exec (.wrMbc5Nop6 addr v) s = .next { s with reply := .nothing }

/-- R243: a control write changes the controller only, and at most one register of it; `WR.MBC1.ROMB`, `WR.MBC1.ROMBHI`,
`WR.MBC5.ROMBLO` and `WR.MBC5.ROMBHI` change only one field of `rom_bank`. The 7 bits of MBC1's register are the premise of
the two MBC1 clauses. -/
def Obligations.ControlWritesChangeControllerOnly : Prop :=
  (∀ (i : Instr) (s : State), i.isControl = true → ∃ m : BankController,
    exec i s = .next { s with bus := { s.bus with mbc := m }, reply := .nothing } ∧
    ((∃ r, m = { s.bus.mbc with romBank := r }) ∨ (∃ r, m = { s.bus.mbc with ramBank := r }) ∨
      (∃ e, m = { s.bus.mbc with ramEnabled := e }) ∨ ∃ k, m = { s.bus.mbc with bankMode := k })) ∧
  (∀ (addr : Word) (v : Byte) (s t : State),
    (s.bus.mbc.romBank.toNat ≤ 0x7F → exec (.wrMbc1Romb addr v) s = .next t →
      t.bus.mbc.romBank.toNat / 32 = s.bus.mbc.romBank.toNat / 32) ∧
    (exec (.wrMbc1Rombhi addr v) s = .next t →
      t.bus.mbc.romBank.toNat % 32 = s.bus.mbc.romBank.toNat % 32) ∧
    (exec (.wrMbc5Romblo addr v) s = .next t →
      t.bus.mbc.romBank.toNat / 256 = s.bus.mbc.romBank.toNat / 256) ∧
    (exec (.wrMbc5Rombhi addr v) s = .next t →
      t.bus.mbc.romBank.toNat % 256 = s.bus.mbc.romBank.toNat % 256))

/-- 42_mbc.md section 6 (R242, a rule the spec marks derived): the controller values reachable from reset are exactly the
legal ones of the variant, in every combination. It rests on the spec's own decisions D7 (log entry 9) and D10 (log
entry 10). -/
def Obligations.ReachableControllerValues : Prop :=
  ∀ (cfg : Config) (m : BankController),
    (∃ s : State, Reachable cfg s ∧ s.bus.mbc = m) ↔
      match cfg.variant with
      | .mbc1 => m.romBank.toNat ≤ 0x7F ∧ m.romBank.toNat % 32 ≠ 0 ∧ m.ramBank.toNat ≤ 3
      | .mbc2 => m.romBank.toNat ≤ 0x0F ∧ m.ramBank = 0#4 ∧ m.bankMode = .rom
      | .mbc3 => 1 ≤ m.romBank.toNat ∧ m.romBank.toNat ≤ 0x7F ∧ m.ramBank.toNat ≤ 3 ∧ m.bankMode = .rom
      | .mbc5 => m.bankMode = .rom

/-- 20_memory.md section 2 (R68): writing twice is writing once, for every bus write but the MBC2 toggle, and two toggles
cancel. -/
def Obligations.WritesAreIdempotentButToggle : Prop :=
  (∀ (addr : Word) (v : Byte) (s t : State), s.Inv →
    ¬ (s.cfg.variant = .mbc2 ∧ addr.toNat ≤ 0x1FFF ∧ addr.toNat / 256 % 2 = 0) →
    step (s.present (wrWord addr v)) = .next t → step (t.present (wrWord addr v)) = .next t) ∧
  (∀ (a b : Word) (v w : Byte) (s t : State), exec (.wrMbc2Ramtog a v) s = .next t →
    exec (.wrMbc2Ramtog b w) t = .next { s with reply := .nothing })

/-- 41_bus_router.md section 3 (R190, a rule the spec marks derived): disabling external RAM or changing its bank and
going back shows the same bytes. -/
def Obligations.XramSurvivesControlWrites : Prop :=
  ∀ (controls : List (Word × Byte)) (a : Word) (s t : State),
    (∀ c ∈ controls, c.1.toNat ≤ 0x7FFF) → 0xA000 ≤ a.toNat → a.toNat ≤ 0xBFFF →
    runWords (controls.map (fun c => wrWord c.1 c.2)) s = .next t →
    t.bus.xram = s.bus.xram ∧
    (t.bus.mbc.ramEnabled = s.bus.mbc.ramEnabled → t.bus.mbc.ramBank = s.bus.mbc.ramBank →
      memRead t.cfg t.bus a = memRead s.cfg s.bus a)

/-! ### Pseudo-operations and fetching -/

/-- 30_encoding.md section 6, `ROMBANK n` (the pseudo-operation is the spec's own decision D3; the zero test is D10; that
the upper write is absent in Ram mode is log entry 15): the bank its expansion leaves selected under each variant, which is
not `n` where a zero field is coerced (MBC1, MBC3) or the upper bits are kept (MBC1 in Ram mode). -/
def Obligations.RombankSelectsBank : Prop :=
  ∀ (n : Nat) (ws : List TWord) (s : State), s.Inv → (Pseudo.rombank n).expand s = some ws →
    ∃ t : State, runWords ws s = .next t ∧ t.bus.mbc.ramBank = s.bus.mbc.ramBank ∧
      t.bus.mbc.romBank.toNat =
        match s.cfg.variant, s.bus.mbc.bankMode with
        | .mbc1, .rom => n / 32 * 32 + (if n % 32 = 0 then 1 else n % 32)
        | .mbc1, .ram => s.bus.mbc.romBank.toNat / 32 * 32 + (if n % 32 = 0 then 1 else n % 32)
        | .mbc2, _ => n
        | .mbc3, _ => if n = 0 then 1 else n
        | .mbc5, _ => n

/-- 30_encoding.md section 6, `FETCH` (the pseudo-operation is the spec's own decision D3), and 20_memory.md section 5
(R81): it returns the byte at the PC, a byte stored there by the transaction before it included, in work RAM and its
mirror, scratch RAM, 0xFFFF, and enabled external RAM in range (where MBC2 keeps the low nibble). -/
def Obligations.FetchReadsByteAtPc : Prop :=
  (∀ s : State, ∃ ws, Pseudo.fetch.expand s = some ws ∧
    results ws s = [.reg s.rf.pc, .bus (memRead s.cfg s.bus s.rf.pc)] ∧
    ∃ t, runWords ws s = .next t ∧ t.rf = { s.rf with pc := s.rf.pc + 1#16 } ∧ t.bus = s.bus) ∧
  (∀ (v : Byte) (s : State), s.Inv → ∃ t ws,
    step (s.present (wrWord s.rf.pc v)) = .next t ∧ Pseudo.fetch.expand t = some ws ∧
    ((0xC000 ≤ s.rf.pc.toNat ∧ s.rf.pc.toNat ≤ 0xFDFF) ∨ 0xFF80 ≤ s.rf.pc.toNat →
      results ws t = [.reg s.rf.pc, .bus v]) ∧
    (0xA000 ≤ s.rf.pc.toNat → s.rf.pc.toNat ≤ 0xBFFF → s.bus.mbc.ramEnabled = true →
      xramIndex s.bus.mbc s.rf.pc < s.cfg.xramSize →
      results ws t = [.reg s.rf.pc, .bus (if s.cfg.variant = .mbc2 then v &&& 0x0F#8 else v)]))

/-! ### Encoding and stepping -/

/-- Decoding the word of a well-formed operation, in a context it belongs to, gives the operation back. -/
def Obligations.DecodeEncodeRoundTrip : Prop :=
  ∀ (ctx : Context) (i : Instr), i.wf = true → i.inContext ctx = true → decode ctx (encode i) = .ok i

/-- A word that decodes is the word of the operation it decodes to, which is well formed and belongs to the context. -/
def Obligations.EncodeDecodeRoundTrip : Prop :=
  ∀ (ctx : Context) (t : TWord) (i : Instr), decode ctx t = .ok i →
    encode i = t ∧ i.wf = true ∧ i.inContext ctx = true

/-- 30_encoding.md section 7 (R120): on every word and in every context the decoder answers the row of opcode_table.json
that selects the word first, and rejects exactly the words no row selects. -/
def Obligations.DecoderFollowsOpcodeTable : Prop :=
  ∀ (ctx : Context) (t : TWord),
    tableRow ctx t = match decode ctx t with
      | .ok i => some i.mnemonic
      | .error _ => none

/-- 30_encoding.md sections 2 and 5 (R104, R113; the word is the spec's own decision D2, its refusal D16): exactly which
words spell an operation, format by format and, in format REG, operation code by operation code. -/
def Obligations.ReservedWordsAreExactlyRejected : Prop :=
  ∀ (ctx : Context) (t : TWord),
    (t.getLsbD 31 = false →
      ((∃ i, decode ctx t = .ok i) ↔
        t.extractLsb' 25 6 = 0#6 ∧ (t.getLsbD 24 = false → t.extractLsb' 0 8 = 0#8))) ∧
    (t.getLsbD 31 = true →
      ((∃ i, decode ctx t = .ok i) ↔
        t.getLsbD 30 = false ∧ t.extractLsb' 16 4 = 0#4 ∧
        match (t.extractLsb' 24 6).toNat with
        | 0x00 => (t.extractLsb' 20 4).toNat < 8 ∧ t.extractLsb' 0 16 = 0#16
        | 0x01 => (t.extractLsb' 20 4).toNat < 8 ∧ t.extractLsb' 8 8 = 0#8
        | 0x02 => (t.extractLsb' 20 4).toNat < 6 ∧ t.extractLsb' 0 16 = 0#16
        | 0x03 => (t.extractLsb' 20 4).toNat < 6
        | 0x04 | 0x05 | 0x06 => t.extractLsb' 20 4 = 0#4 ∧ t.extractLsb' 0 16 = 0#16
        | 0x08 | 0x09 | 0x0A => t.extractLsb' 20 4 = 0#4 ∧ t.extractLsb' 8 8 = 0#8
        | 0x0B => t.extractLsb' 21 3 = 0#3 ∧ t.extractLsb' 8 8 = 0#8
        | 0x0C => (t.extractLsb' 20 4).toNat < 3 ∧ t.extractLsb' 0 16 = 0#16
        | 0x0D => (t.extractLsb' 20 4).toNat < 3 ∧ t.extractLsb' 1 15 = 0#15
        | _ => False))

/-- A few words written out from the spec's encodings, one per format and family, decode to their operations. -/
def Obligations.SampleWordsDecode : Prop :=
  decode ⟨.mbc1, .rom⟩ 0x00400000#32 = .ok (.rdRomx 0x4000#16) ∧
  decode ⟨.mbc1, .rom⟩ 0x00FFFF00#32 = .ok .rdIe ∧
  decode ⟨.mbc1, .rom⟩ 0x01A00077#32 = .ok (.wrXram 0xA000#16 0x77#8) ∧
  decode ⟨.mbc1, .rom⟩ 0x01400003#32 = .ok (.wrMbc1Rombhi 0x4000#16 0x03#8) ∧
  decode ⟨.mbc1, .ram⟩ 0x01400003#32 = .ok (.wrMbc1Ramb 0x4000#16 0x03#8) ∧
  decode ⟨.mbc2, .rom⟩ 0x01210007#32 = .ok (.wrMbc2Romb 0x2100#16 0x07#8) ∧
  decode ⟨.mbc3, .rom⟩ 0x01600001#32 = .ok (.wrMbc3Rtclatch 0x6000#16 0x01#8) ∧
  decode ⟨.mbc5, .rom⟩ 0x01300001#32 = .ok (.wrMbc5Rombhi 0x3000#16 0x01#8) ∧
  decode ⟨.mbc1, .rom⟩ 0x8340FFFE#32 = .ok (.wr16 .sp 0xFFFE#16) ∧
  decode ⟨.mbc1, .rom⟩ 0x8B100010#32 = .ok (.fput 0x10#8 true) ∧
  decode ⟨.mbc1, .rom⟩ 0x8D100001#32 = .ok (.wrctl .stopped true) ∧
  decode ⟨.mbc1, .rom⟩ 0x87000000#32 = .error .unassignedOp

/-- A step performs the oldest presented word: `exec` of what it decodes to, in the context of the moment, on the state
without that word; `withFetchWord` presents a word as the next. -/
def Obligations.StepRunsDecodedInstruction : Prop :=
  (∀ (s : State) (w : TWord) (rest : List TWord) (i : Instr), s.pending = w :: rest →
    decode s.context w = .ok i → step s = exec i { s with pending := rest }) ∧
  (∀ (s : State) (i : Instr), i.wf = true → i.inContext s.context = true →
    step (s.withFetchWord 32 (encode i).toNat) = exec i s)

/-- 00_scope.md section 3 (R2) and 60_exceptions.md section 1 (the refusal of a reserved word is the spec's own decision
D16): with nothing presented the block does not change; a step never faults; it refuses a word exactly when the word
spells no operation. -/
def Obligations.StepRefusesOnlyReservedWords : Prop :=
  ∀ s : State,
    (s.pending = [] → step s = .next s) ∧
    (∀ f, step s ≠ .fault f) ∧
    (∀ w rest, s.pending = w :: rest →
      ∀ r, (step s = .refused r ↔ ∃ e, decode s.context w = .error e ∧ r = .reservedWord e))

/-! ### Invariants -/

/-- `State.Inv` (F's low nibble is 0; the controller's registers hold values their variant admits; every buffer is in
canonical form and inside its size) is kept by every step from every state that meets it. -/
def Obligations.StepKeepsInvariant : Prop :=
  ∀ s t : State, s.Inv → step s = .next t → t.Inv

/-- Buffers in canonical form that read alike at every index are the same data. -/
def Obligations.EqualContentsAreEqualData : Prop :=
  ∀ m m' : Machine.Memory, Memory.wf m = true → Memory.wf m' = true →
    (∀ i, Memory.read m i = Memory.read m' i) → m = m'

end
end

