-- ==== Sys2Proof/Laws/Decode.lean ====
section
/-! SUPPORT. The two layers of the decoder. Word and port: splitting and laying out are inverse. Port and operation:
what a bus port decodes to is well formed, belongs to the context and carries the port's signals. -/

namespace Sys2Proof

/-! ### Word and port -/

/-- R102: the word of a bus port splits back, if a read carries no data. -/
theorem splitWord_word_bus (wr : Bool) (a : Word) (d : Byte) (h : wr = true ∨ d = 0#8) :
    splitWord (Port.bus wr a d).word = .ok (.bus wr a d) := by
  have e31 : (Port.bus wr a d).word.getLsbD 31 = false := by
    cases wr <;> simp [Port.word]
  have e24 : (Port.bus wr a d).word.getLsbD 24 = wr := by
    cases wr <;> simp [Port.word]
  have e25 : (Port.bus wr a d).word.extractLsb' 25 6 = 0#6 := by
    apply BitVec.eq_of_getLsbD_eq; intro i hi
    cases wr <;> interval_cases i <;> simp [Port.word]
  have ea : (Port.bus wr a d).word.extractLsb' 8 16 = a := by
    apply BitVec.eq_of_getLsbD_eq; intro i hi
    cases wr <;> interval_cases i <;> simp [Port.word]
  have ed : (Port.bus wr a d).word.extractLsb' 0 8 = d := by
    apply BitVec.eq_of_getLsbD_eq; intro i hi
    cases wr <;> interval_cases i <;> simp [Port.word]
  unfold splitWord splitBus
  rw [e31, e24, e25, ea, ed]
  rcases h with h | h <;> simp [h]

/-- R103: the word of a register port splits back. -/
theorem splitWord_word_reg (op : BitVec 6) (sel : BitVec 4) (imm : Word) :
    splitWord (Port.reg op sel imm).word = .ok (.reg op sel imm) := by
  have e31 : (Port.reg op sel imm).word.getLsbD 31 = true := by
    simp [Port.word]
  have e30 : (Port.reg op sel imm).word.getLsbD 30 = false := by
    simp [Port.word]
  have e16 : (Port.reg op sel imm).word.extractLsb' 16 4 = 0#4 := by
    apply BitVec.eq_of_getLsbD_eq; intro i hi
    interval_cases i <;> simp [Port.word]
  have eo : (Port.reg op sel imm).word.extractLsb' 24 6 = op := by
    apply BitVec.eq_of_getLsbD_eq; intro i hi
    interval_cases i <;> simp [Port.word]
  have es : (Port.reg op sel imm).word.extractLsb' 20 4 = sel := by
    apply BitVec.eq_of_getLsbD_eq; intro i hi
    interval_cases i <;> simp [Port.word]
  have ei : (Port.reg op sel imm).word.extractLsb' 0 16 = imm := by
    apply BitVec.eq_of_getLsbD_eq; intro i hi
    interval_cases i <;> simp [Port.word]
  unfold splitWord splitReg
  rw [e31, e30, e16, eo, es, ei]
  simp

/-- A bit of a zero field is clear. -/
theorem bit_of_extract_zero {t : TWord} {lo w j : Nat} (h : t.extractLsb' lo w = 0#w) (hj : j < w) :
    t.getLsbD (lo + j) = false := by
  have := congrArg (fun b => b.getLsbD j) h
  simpa [hj] using this

/-- A word that splits is the word of its port: no bit of it is dropped. -/
theorem word_of_splitWord {t : TWord} {p : Port} (h : splitWord t = .ok p) : p.word = t := by
  unfold splitWord at h
  split at h
  · next h31 =>
    unfold splitReg at h
    split at h
    · cases h
    · next h30 =>
      split at h
      · cases h
      · next h16 =>
        have h16' : t.extractLsb' 16 4 = 0#4 := by simpa using h16
        injection h with h
        subst h
        have k16 := bit_of_extract_zero h16' (j := 0) (by omega)
        have k17 := bit_of_extract_zero h16' (j := 1) (by omega)
        have k18 := bit_of_extract_zero h16' (j := 2) (by omega)
        have k19 := bit_of_extract_zero h16' (j := 3) (by omega)
        clear h16 h16'
        simp at h30
        apply BitVec.eq_of_getLsbD_eq
        intro i hi
        interval_cases i <;> simp_all [Port.word]
  · next h31 =>
    unfold splitBus at h
    split at h
    · cases h
    · next h25 =>
      split at h
      · cases h
      · next hd =>
        injection h with h
        subst h
        have h25' : t.extractLsb' 25 6 = 0#6 := by simpa using h25
        have k0 := bit_of_extract_zero h25' (j := 0) (by omega)
        have k1 := bit_of_extract_zero h25' (j := 1) (by omega)
        have k2 := bit_of_extract_zero h25' (j := 2) (by omega)
        have k3 := bit_of_extract_zero h25' (j := 3) (by omega)
        have k4 := bit_of_extract_zero h25' (j := 4) (by omega)
        have k5 := bit_of_extract_zero h25' (j := 5) (by omega)
        clear h25 h25' hd
        apply BitVec.eq_of_getLsbD_eq
        intro i hi
        cases h24 : t.getLsbD 24 <;> interval_cases i <;> simp_all [Port.word]

/-- The word of every operation splits back to its port. -/
theorem Instr.splitWord_port (i : Instr) : splitWord i.port.word = .ok i.port := by
  have h : (∃ op sel imm, i.port = .reg op sel imm) ∨ ∃ wr a d, i.port = .bus wr a d ∧ (wr = true ∨ d = 0#8) := by
    cases i <;> first
      | exact .inl ⟨_, _, _, rfl⟩
      | exact .inr ⟨_, _, _, rfl, .inr rfl⟩
      | exact .inr ⟨_, _, _, rfl, .inl rfl⟩
  rcases h with ⟨op, sel, imm, h⟩ | ⟨wr, a, d, h, hd⟩
  · rw [h]; exact splitWord_word_reg op sel imm
  · rw [h]; exact splitWord_word_bus wr a d hd

/-! ### Fields in numbers -/

/-- A field of an address, in numbers. -/
theorem extract_eq_iff {a : Word} {lo w : Nat} (v : BitVec w) :
    a.extractLsb' lo w = v ↔ (a.toNat >>> lo) % 2 ^ w = v.toNat := by
  constructor
  · intro h; simpa using congrArg BitVec.toNat h
  · intro h; apply BitVec.eq_of_toNat_eq; simpa using h

/-- A bit of an address, in numbers. -/
theorem getLsbD_eq_bit {a : Word} {i : Nat} : a.getLsbD i = decide (a.toNat >>> i % 2 = 1) := by
  simp [BitVec.getLsbD, Nat.testBit, Nat.one_and_eq_mod_two]

/-! ### Operands -/

@[simp] theorem immIsByte_byteImm (v : Byte) : immIsByte (byteImm v) = true := by
  have hv : v.toNat < 256 := v.isLt
  simp only [immIsByte, byteImm, beq_iff_eq]
  apply BitVec.eq_of_toNat_eq
  simp
  omega

@[simp] theorem extract_byteImm (v : Byte) : (byteImm v).extractLsb' 0 8 = v := by
  apply BitVec.eq_of_toNat_eq
  simp [byteImm]
  exact v.isLt

/-- An `IMM` that is a byte is the byte's immediate. -/
theorem byteImm_extract {imm : Word} (h : immIsByte imm = true) : byteImm (imm.extractLsb' 0 8) = imm := by
  simp only [immIsByte, beq_iff_eq, extract_eq_iff] at h
  apply BitVec.eq_of_toNat_eq
  have := imm.isLt
  simp [byteImm] at h ⊢
  omega

/-- An `IMM` with bits 15:1 clear is a bool's immediate. -/
theorem boolImm_extract {imm : Word} (h : imm.extractLsb' 1 15 = 0#15) : boolImm (imm.getLsbD 0) = imm := by
  rw [extract_eq_iff] at h
  have := imm.isLt
  rw [getLsbD_eq_bit]
  apply BitVec.eq_of_toNat_eq
  simp at h
  by_cases h1 : imm.toNat % 2 = 1 <;> simp [boolImm, h1] <;> omega

/-- A `SEL` with bits 3:1 clear is a bool's selector. -/
theorem boolSel_extract {sel : BitVec 4} (h : sel.extractLsb' 1 3 = 0#3) : boolSel (sel.getLsbD 0) = sel := by
  revert sel; decide

/-- R105: a selector that names a register is its code. -/
theorem Reg8.code_ofCode {sel : BitVec 4} {r : Reg8} (h : Reg8.ofCode sel = some r) : r.code = sel := by
  revert sel r; decide

/-- R106. -/
theorem View16.code_ofCode {sel : BitVec 4} {p : View16} (h : View16.ofCode sel = some p) : p.code = sel := by
  revert sel p; decide

/-- R107. -/
theorem Latch.code_ofCode {sel : BitVec 4} {c : Latch} (h : Latch.ofCode sel = some c) : c.code = sel := by
  revert sel c; decide

/-! ### Port and operation -/

/-- A read decodes to a well-formed operation whose port carries the address. -/
theorem decodeRead_wf (a : Word) (ctx : Context) :
    (decodeRead a).wf = true ∧ (decodeRead a).inContext ctx = true ∧ (decodeRead a).port = .bus false a 0#8 := by
  have ha : a.toNat < 65536 := a.isLt
  unfold decodeRead
  simp only [extract_eq_iff, BitVec.toNat_eq (y := 0xFFFF#16)]
  repeat' split
  all_goals
    simp only [Instr.wf, Instr.inContext, Instr.port, inWindow, Bool.and_eq_true, decide_eq_true_eq, true_and,
      and_true, Nat.zero_le]
  all_goals first
    | omega
    | (simp at *; omega)
    | (apply congrArg (fun x => Port.bus false x 0#8); apply BitVec.eq_of_toNat_eq; simp at *; omega)

/-- A write below 0x8000 is a control write. -/
theorem decodeWrite_control {a : Word} (ctx : Context) (v : Byte) (h : a.toNat < 0x8000) :
    decodeWrite ctx a v = decodeControl ctx a v := by
  have h15 : a.getLsbD 15 = false := by rw [getLsbD_eq_bit, decide_eq_false_iff_not]; omega
  rw [decodeWrite, if_pos h15]

theorem decodeMbc1_wf (mode : BankMode) (a : Word) (v : Byte) (h : a.toNat < 0x8000) :
    (decodeMbc1 mode a v).wf = true ∧ (decodeMbc1 mode a v).inContext ⟨.mbc1, mode⟩ = true ∧
      (decodeMbc1 mode a v).port = .bus true a v := by
  unfold decodeMbc1
  simp only [extract_eq_iff]
  repeat' split
  all_goals
    simp only [Instr.wf, Instr.inContext, Instr.port, inWindow, Bool.and_eq_true, decide_eq_true_eq, true_and,
      and_true, Nat.zero_le, decide_true]
  all_goals simp at *
  all_goals omega

theorem decodeMbc2_wf (mode : BankMode) (a : Word) (v : Byte) (h : a.toNat < 0x8000) :
    (decodeMbc2 a v).wf = true ∧ (decodeMbc2 a v).inContext ⟨.mbc2, mode⟩ = true ∧
      (decodeMbc2 a v).port = .bus true a v := by
  unfold decodeMbc2
  simp only [extract_eq_iff, getLsbD_eq_bit, decide_eq_true_eq]
  repeat' split
  all_goals
    simp only [Instr.wf, Instr.inContext, Instr.port, inWindow, getLsbD_eq_bit, Bool.and_eq_true, decide_eq_true_eq,
      true_and, and_true, Nat.zero_le, decide_true, Bool.not_eq_true', decide_eq_false_iff_not]
  all_goals simp at *
  all_goals omega

theorem decodeMbc3_wf (mode : BankMode) (a : Word) (v : Byte) (h : a.toNat < 0x8000) :
    (decodeMbc3 a v).wf = true ∧ (decodeMbc3 a v).inContext ⟨.mbc3, mode⟩ = true ∧
      (decodeMbc3 a v).port = .bus true a v := by
  unfold decodeMbc3
  simp only [extract_eq_iff]
  repeat' split
  all_goals
    simp only [Instr.wf, Instr.inContext, Instr.port, inWindow, Bool.and_eq_true, decide_eq_true_eq, true_and,
      and_true, Nat.zero_le, decide_true]
  all_goals simp at *
  all_goals omega

theorem decodeMbc5_wf (mode : BankMode) (a : Word) (v : Byte) (h : a.toNat < 0x8000) :
    (decodeMbc5 a v).wf = true ∧ (decodeMbc5 a v).inContext ⟨.mbc5, mode⟩ = true ∧
      (decodeMbc5 a v).port = .bus true a v := by
  unfold decodeMbc5
  simp only [extract_eq_iff, getLsbD_eq_bit, decide_eq_true_eq]
  repeat' split
  all_goals
    simp only [Instr.wf, Instr.inContext, Instr.port, inWindow, Bool.and_eq_true, decide_eq_true_eq,
      true_and, and_true, Nat.zero_le, decide_true]
  all_goals simp at *
  all_goals omega

/-- A control write decodes to a well-formed operation of the context, whose port carries address and value. -/
theorem decodeControl_wf (ctx : Context) (a : Word) (v : Byte) (h : a.toNat < 0x8000) :
    (decodeControl ctx a v).wf = true ∧ (decodeControl ctx a v).inContext ctx = true ∧
      (decodeControl ctx a v).port = .bus true a v := by
  obtain ⟨var, mode⟩ := ctx
  cases var
  · exact decodeMbc1_wf mode a v h
  · exact decodeMbc2_wf mode a v h
  · exact decodeMbc3_wf mode a v h
  · exact decodeMbc5_wf mode a v h

/-- A write decodes to a well-formed operation of the context, whose port carries address and value. -/
theorem decodeWrite_wf (ctx : Context) (a : Word) (v : Byte) :
    (decodeWrite ctx a v).wf = true ∧ (decodeWrite ctx a v).inContext ctx = true ∧
      (decodeWrite ctx a v).port = .bus true a v := by
  have ha : a.toNat < 65536 := a.isLt
  unfold decodeWrite
  split
  · next h =>
    rw [getLsbD_eq_bit, decide_eq_false_iff_not] at h
    exact decodeControl_wf ctx a v (by omega)
  · next h =>
    rw [getLsbD_eq_bit, decide_eq_false_iff_not] at h
    simp only [extract_eq_iff, BitVec.toNat_eq (y := 0xFFFF#16)]
    repeat' split
    all_goals
      simp only [Instr.wf, Instr.inContext, Instr.port, inWindow, Bool.and_eq_true, decide_eq_true_eq, true_and,
        and_true]
    all_goals first
      | omega
      | (simp at *; omega)
      | (apply congrArg (fun x => Port.bus true x v); apply BitVec.eq_of_toNat_eq; simp at *; omega)

/-- What an operation without a selector decodes from. -/
theorem whenClear_ok {u : Bool} {i j : Instr} (h : whenClear u i = .ok j) : u = true ∧ j = i := by
  cases u
  · simp [whenClear] at h
  · simp only [whenClear, if_true] at h
    injection h with h; exact ⟨rfl, h.symm⟩

/-- What an operation with a selector decodes from. -/
theorem onSelector_ok {α : Type} {o : Option α} {u : Bool} {mk : α → Instr} {j : Instr}
    (h : onSelector o u mk = .ok j) :
    ∃ x, o = some x ∧ u = true ∧ j = mk x := by
  cases o with
  | none => simp [onSelector] at h
  | some x => exact ⟨x, rfl, whenClear_ok h⟩

/-- R104: what a register port decodes to carries the port's signals and belongs to every context. -/
theorem decodeReg_ok {op : BitVec 6} {sel : BitVec 4} {imm : Word} {i : Instr} (h : decodeReg op sel imm = .ok i) :
    i.port = .reg op sel imm ∧ i.wf = true ∧ ∀ ctx, i.inContext ctx = true := by
  have hop : op = BitVec.ofNat 6 op.toNat := by simp
  unfold decodeReg at h
  split at h
  case h_14 => cases h
  all_goals (rename_i hn; rw [hn] at hop; subst hop)
  case h_1 | h_3 | h_12 =>
    obtain ⟨x, hx, hu, rfl⟩ := onSelector_ok h
    first
      | (have := Reg8.code_ofCode hx; have hu := beq_iff_eq.1 hu; subst this hu; exact ⟨rfl, rfl, fun _ => rfl⟩)
      | (have := View16.code_ofCode hx; have hu := beq_iff_eq.1 hu; subst this hu; exact ⟨rfl, rfl, fun _ => rfl⟩)
      | (have := Latch.code_ofCode hx; have hu := beq_iff_eq.1 hu; subst this hu; exact ⟨rfl, rfl, fun _ => rfl⟩)
  case h_2 =>
    obtain ⟨x, hx, hu, rfl⟩ := onSelector_ok h
    have := Reg8.code_ofCode hx; subst this
    exact ⟨by rw [Instr.port, byteImm_extract hu], rfl, fun _ => rfl⟩
  case h_4 =>
    obtain ⟨x, hx, hu, rfl⟩ := onSelector_ok h
    have := View16.code_ofCode hx; subst this
    exact ⟨rfl, rfl, fun _ => rfl⟩
  case h_5 | h_6 | h_7 =>
    obtain ⟨hu, rfl⟩ := whenClear_ok h
    simp only [Bool.and_eq_true, beq_iff_eq] at hu
    obtain ⟨rfl, rfl⟩ := hu
    exact ⟨rfl, rfl, fun _ => rfl⟩
  case h_8 | h_9 | h_10 =>
    obtain ⟨hu, rfl⟩ := whenClear_ok h
    simp only [Bool.and_eq_true, beq_iff_eq] at hu
    obtain ⟨rfl, hb⟩ := hu
    exact ⟨by rw [Instr.port, byteImm_extract hb], rfl, fun _ => rfl⟩
  case h_11 =>
    obtain ⟨hu, rfl⟩ := whenClear_ok h
    simp only [Bool.and_eq_true, beq_iff_eq] at hu
    exact ⟨by rw [Instr.port, byteImm_extract hu.2, boolSel_extract hu.1], rfl, fun _ => rfl⟩
  case h_13 =>
    obtain ⟨x, hx, hu, rfl⟩ := onSelector_ok h
    have := Latch.code_ofCode hx; subst this
    exact ⟨by rw [Instr.port, boolImm_extract (beq_iff_eq.1 hu)], rfl, fun _ => rfl⟩

end Sys2Proof
end

