-- ==== Sys2Proof/Laws/Memory.lean ====
section
/-! SUPPORT. What reading and storing do to a sparse buffer, and that every store keeps the canonical form. -/

namespace Sys2Proof.Machine

@[simp] theorem Memory.read_nil (i : Nat) : Memory.read [] i = Memory.unlisted := rfl

/-- A canonical list may start higher than it must. -/
theorem Memory.wfFrom_mono {m : Memory} {lo lo' : Nat} (h : lo ≤ lo') (hm : Memory.wfFrom lo' m = true) :
    Memory.wfFrom lo m = true := by
  cases m with
  | nil => rfl
  | cons c rest =>
    obtain ⟨a, b⟩ := c
    simp only [Memory.wfFrom, Bool.and_eq_true, decide_eq_true_eq] at hm ⊢
    exact ⟨⟨by omega, hm.1.2⟩, hm.2⟩

/-- Below the first entry everything is unlisted. -/
theorem Memory.read_of_lt {m : Memory} {lo i : Nat} (hm : Memory.wfFrom lo m = true) (hi : i < lo) :
    Memory.read m i = Memory.unlisted := by
  induction m generalizing lo with
  | nil => rfl
  | cons c rest ih =>
    obtain ⟨a, b⟩ := c
    simp only [Memory.wfFrom, Bool.and_eq_true, decide_eq_true_eq] at hm
    simp only [Memory.read, show a ≠ i by omega, if_false]
    exact ih hm.2 (by omega)

/-- A write leaves every other index alone. -/
theorem Memory.read_write_other {m : Memory} {i j : Nat} (v : Byte) (h : i ≠ j) :
    Memory.read (Memory.write m i v) j = Memory.read m j := by
  induction m with
  | nil => simp only [Memory.write]; split <;> simp [Memory.read, h]
  | cons c rest ih =>
    obtain ⟨a, b⟩ := c
    simp only [Memory.write]
    split
    · split <;> simp [Memory.read, h]
    · split
      · next h2 => subst h2; split <;> simp [Memory.read, h]
      · simp only [Memory.read, ih]

/-- A write is read back. -/
theorem Memory.read_write_same {m : Memory} {lo i : Nat} (v : Byte) (hm : Memory.wfFrom lo m = true) :
    Memory.read (Memory.write m i v) i = v := by
  induction m generalizing lo with
  | nil =>
    simp only [Memory.write]
    split
    · next h => exact h.symm
    · simp [Memory.read]
  | cons c rest ih =>
    obtain ⟨a, b⟩ := c
    simp only [Memory.wfFrom, Bool.and_eq_true, decide_eq_true_eq] at hm
    simp only [Memory.write]
    split
    · next hlt =>
      split
      · next hv =>
        simp only [Memory.read, show a ≠ i by omega, if_false]
        rw [Memory.read_of_lt hm.2 (by omega), hv]
      · simp [Memory.read]
    · split
      · next heq =>
        split
        · next hv => rw [Memory.read_of_lt hm.2 (by omega), hv]
        · simp [Memory.read]
      · next hne =>
        simp only [Memory.read, show a ≠ i by omega, if_false]
        exact ih hm.2

/-- A write keeps the canonical form. -/
theorem Memory.wfFrom_write {m : Memory} {lo i : Nat} (v : Byte) (hm : Memory.wfFrom lo m = true) (hi : lo ≤ i) :
    Memory.wfFrom lo (Memory.write m i v) = true := by
  induction m generalizing lo with
  | nil =>
    simp only [Memory.write]
    split
    · rfl
    · next h => simp [Memory.wfFrom, hi, h]
  | cons c rest ih =>
    obtain ⟨a, b⟩ := c
    have hm' := hm
    simp only [Memory.wfFrom, Bool.and_eq_true, decide_eq_true_eq] at hm
    simp only [Memory.write]
    split
    · next hlt =>
      split
      · exact hm'
      · next hv =>
        simp only [Memory.wfFrom, Bool.and_eq_true, decide_eq_true_eq, bne_iff_ne, ne_eq]
        refine ⟨⟨hi, hv⟩, ⟨by omega, ?_⟩, hm.2⟩
        simpa using hm.1.2
    · split
      · next heq =>
        split
        · exact Memory.wfFrom_mono (by omega) hm.2
        · next hv => simp [Memory.wfFrom, hv, heq, hm.2, hm.1.1]
      · next hne =>
        simp only [Memory.wfFrom, Bool.and_eq_true, decide_eq_true_eq]
        exact ⟨hm.1, ih hm.2 (by omega)⟩

/-- A write inside the buffer keeps every entry inside it. -/
theorem Memory.below_write {m : Memory} {len i : Nat} (v : Byte) (hm : Memory.below len m = true) (hi : i < len) :
    Memory.below len (Memory.write m i v) = true := by
  induction m with
  | nil => simp only [Memory.write]; split <;> simp [Memory.below, hi]
  | cons c rest ih =>
    obtain ⟨a, b⟩ := c
    simp only [Memory.below, Bool.and_eq_true, decide_eq_true_eq] at hm
    simp only [Memory.write]
    split
    · split <;> simp [Memory.below, hi, hm]
    · split
      · split <;> simp [Memory.below, hi, hm]
      · simp [Memory.below, hm.1, ih hm.2]

/-- A store keeps the buffer canonical and inside its size. -/
theorem Memory.fits_store {m : Memory} {len : Nat} (i : Nat) (v : Byte) (hm : Memory.fits len m = true) :
    Memory.fits len (Memory.store len m i v) = true := by
  simp only [Memory.fits, Memory.wf, Bool.and_eq_true] at hm ⊢
  by_cases h : i < len
  · simp only [Memory.store, inRange, h, decide_true, if_true]
    exact ⟨Memory.wfFrom_write v hm.1 (Nat.zero_le i), Memory.below_write v hm.2 h⟩
  · simpa [Memory.store, inRange, h] using hm

/-- A store inside the buffer is read back. -/
theorem Memory.read_store_same {m : Memory} {len i : Nat} (v : Byte) (hm : Memory.fits len m = true) (hi : i < len) :
    Memory.read (Memory.store len m i v) i = v := by
  simp only [Memory.fits, Memory.wf, Bool.and_eq_true] at hm
  simp only [Memory.store, inRange, hi, decide_true, if_true]
  exact Memory.read_write_same v hm.1

/-- A store leaves every other index alone. -/
theorem Memory.read_store_other {m : Memory} {len i j : Nat} (v : Byte) (h : i ≠ j) :
    Memory.read (Memory.store len m i v) j = Memory.read m j := by
  simp only [Memory.store]
  split
  · exact Memory.read_write_other v h
  · rfl

/-- A store outside the buffer is discarded (R72). -/
theorem Memory.store_outside {m : Memory} {len i : Nat} (v : Byte) (h : ¬ i < len) :
    Memory.store len m i v = m := by
  simp [Memory.store, inRange, h]

end Sys2Proof.Machine
end

