-- ==== Sys2Proof/Laws/Ops.lean ====
section
/-! SUPPORT. What each shared operation does, said once in numbers: the register file's stepping, the flag algebra, the
index functions, every update of the bank controller and the two bus primitives. -/

namespace Sys2Proof.Machine

/-! ### Bits and views -/

/-- R21: a view is its high byte times 256 plus its low byte. -/
theorem pairOf_toNat (high low : Byte) : (pairOf high low).toNat = high.toNat * 256 + low.toNat := by
  have hh := high.isLt
  have hl := low.isLt
  have hz : (high.setWidth 16 <<< 8) &&& low.setWidth 16 = 0#16 := by
    apply BitVec.eq_of_getLsbD_eq
    intro i hi
    interval_cases i <;> simp
  rw [pairOf, ← BitVec.add_eq_or_of_and_eq_zero _ _ hz, BitVec.toNat_add_of_and_eq_zero hz]
  simp only [BitVec.toNat_shiftLeft, BitVec.toNat_setWidth, Nat.shiftLeft_eq]
  omega

theorem highByte_toNat (w : Word) : (highByte w).toNat = w.toNat / 256 := by
  have := w.isLt
  simp only [highByte, BitVec.extractLsb'_toNat, Nat.shiftRight_eq_div_pow]
  omega

theorem lowByte_toNat (w : Word) : (lowByte w).toNat = w.toNat % 256 := by
  simp [lowByte]

/-- A view written whole reads back whole (R65). -/
@[simp] theorem pairOf_bytes (w : Word) : pairOf (highByte w) (lowByte w) = w := by
  apply BitVec.eq_of_toNat_eq
  rw [pairOf_toNat, highByte_toNat, lowByte_toNat]
  omega

/-- R135: HL plus one, modulo 0x10000. -/
theorem incHl_toNat (g : RegisterFile) :
    (g.incHl.read16 .hl).toNat = ((g.read16 .hl).toNat + 1) % 65536 := by
  have hh := g.h.isLt
  have hl := g.l.isLt
  simp only [RegisterFile.read16, pairOf_toNat, RegisterFile.incHl]
  split
  · next h =>
    have h' := congrArg BitVec.toNat h
    simp only [BitVec.toNat_add, BitVec.toNat_ofNat] at h' ⊢
    omega
  · next h =>
    have h' : (g.l + 1#8).toNat ≠ 0 := fun e => h (BitVec.eq_of_toNat_eq e)
    simp only [BitVec.toNat_add, BitVec.toNat_ofNat] at h' ⊢
    omega

/-- R136: HL minus one, modulo 0x10000. -/
theorem decHl_toNat (g : RegisterFile) :
    (g.decHl.read16 .hl).toNat = ((g.read16 .hl).toNat + 65535) % 65536 := by
  have hh := g.h.isLt
  have hl := g.l.isLt
  simp only [RegisterFile.read16, pairOf_toNat, RegisterFile.decHl]
  split
  · next h =>
    have h' := congrArg BitVec.toNat h
    simp only [BitVec.toNat_add, BitVec.toNat_ofNat] at h' ⊢
    omega
  · next h =>
    have h' : (g.l + 0xFF#8).toNat ≠ 255 := fun e => h (BitVec.eq_of_toNat_eq e)
    simp only [BitVec.toNat_add, BitVec.toNat_ofNat] at h' ⊢
    omega

/-! ### The bank controller -/

theorem toNat_or_of_disjoint {x y : BitVec 9} (h : x &&& y = 0#9) : (x ||| y).toNat = x.toNat + y.toNat := by
  rw [← BitVec.add_eq_or_of_and_eq_zero _ _ h]
  exact BitVec.toNat_add_of_and_eq_zero h

theorem low_nibble (v : Byte) : (v &&& 0x0F#8).toNat = v.toNat % 16 := by revert v; decide
theorem low_two_bits (v : Byte) : (v &&& 0x03#8).toNat = v.toNat % 4 := by revert v; decide
theorem low_bit (v : Byte) : (v &&& 0x01#8).toNat = v.toNat % 2 := by revert v; decide
theorem low_five_bits (v : Byte) : (v &&& 0x1F#8).toNat = v.toNat % 32 := by revert v; decide
theorem low_seven_bits (v : Byte) : (v &&& 0x7F#8).toNat = v.toNat % 128 := by revert v; decide

theorem coerceBank_toNat (n : Byte) : (coerceBank n).toNat = if n.toNat = 0 then 1 else n.toNat := by
  revert n; decide

/-- R200. -/
theorem ramEnable_spec (m : BankController) (v : Byte) :
    m.ramEnable v = { m with ramEnabled := decide (v.toNat % 16 = 10) } := by
  have h : ((v &&& 0x0F#8) == 0x0A#8) = decide (v.toNat % 16 = 10) := by revert v; decide
  rw [BankController.ramEnable, h]

/-- R201. -/
theorem mbc1RomLow_spec (m : BankController) (v : Byte) :
    (m.mbc1RomLow v).romBank.toNat =
      m.romBank.toNat / 32 % 4 * 32 + (if v.toNat % 32 = 0 then 1 else v.toNat % 32) ∧
    m.mbc1RomLow v = { m with romBank := (m.mbc1RomLow v).romBank } := by
  refine ⟨?_, rfl⟩
  have hz : (m.romBank &&& 0x60#9) &&& (coerceBank (v &&& 0x1F#8)).setWidth 9 = 0#9 := by
    have e : 0x60#9 &&& (coerceBank (v &&& 0x1F#8)).setWidth 9 = 0#9 := by revert v; decide
    rw [BitVec.and_assoc, e, BitVec.and_zero]
  have hl : (m.romBank &&& 0x60#9).toNat = m.romBank.toNat / 32 % 4 * 32 := by
    generalize m.romBank = r; revert r; decide
  have hr : ((coerceBank (v &&& 0x1F#8)).setWidth 9).toNat = if v.toNat % 32 = 0 then 1 else v.toNat % 32 := by
    clear hz; revert v; decide
  rw [BankController.mbc1RomLow, toNat_or_of_disjoint hz, hl, hr]

/-- R202. -/
theorem mbc1RomHigh_spec (m : BankController) (v : Byte) :
    (m.mbc1RomHigh v).romBank.toNat = v.toNat % 4 * 32 + m.romBank.toNat % 32 ∧
    m.mbc1RomHigh v = { m with romBank := (m.mbc1RomHigh v).romBank } := by
  refine ⟨?_, rfl⟩
  have hz : (m.romBank &&& 0x1F#9) &&& ((v &&& 0x03#8).setWidth 9 <<< 5) = 0#9 := by
    have e : 0x1F#9 &&& ((v &&& 0x03#8).setWidth 9 <<< 5) = 0#9 := by revert v; decide
    rw [BitVec.and_assoc, e, BitVec.and_zero]
  have hl : (m.romBank &&& 0x1F#9).toNat = m.romBank.toNat % 32 := by
    generalize m.romBank = r; revert r; decide
  have hr : ((v &&& 0x03#8).setWidth 9 <<< 5).toNat = v.toNat % 4 * 32 := by clear hz; revert v; decide
  rw [BankController.mbc1RomHigh, toNat_or_of_disjoint hz, hl, hr, Nat.add_comm]

/-- R203, R222. -/
theorem ramBankTwoBits_spec (m : BankController) (v : Byte) :
    (m.ramBankTwoBits v).ramBank.toNat = v.toNat % 4 ∧
    m.ramBankTwoBits v = { m with ramBank := (m.ramBankTwoBits v).ramBank } := by
  refine ⟨?_, rfl⟩
  have h : ((v &&& 0x03#8).setWidth 4).toNat = v.toNat % 4 := by revert v; decide
  exact h

/-- R204. -/
theorem selectMode_spec (m : BankController) (v : Byte) :
    m.selectMode v = { m with bankMode := if v.toNat % 2 = 1 then .ram else .rom } := by
  have h : (v &&& 0x01#8 = 1#8) = (v.toNat % 2 = 1) := by
    apply propext; rw [← BitVec.toNat_inj, low_bit]; rfl
  simp only [BankController.selectMode, h]

/-- R212. -/
theorem mbc2Rom_spec (m : BankController) (v : Byte) :
    (m.mbc2Rom v).romBank.toNat = v.toNat % 16 ∧ m.mbc2Rom v = { m with romBank := (m.mbc2Rom v).romBank } := by
  refine ⟨?_, rfl⟩
  have h : ((v &&& 0x0F#8).setWidth 9).toNat = v.toNat % 16 := by revert v; decide
  exact h

/-- R221. -/
theorem mbc3Rom_spec (m : BankController) (v : Byte) :
    (m.mbc3Rom v).romBank.toNat = (if v.toNat % 128 = 0 then 1 else v.toNat % 128) ∧
    m.mbc3Rom v = { m with romBank := (m.mbc3Rom v).romBank } := by
  refine ⟨?_, rfl⟩
  have h : ((coerceBank (v &&& 0x7F#8)).setWidth 9).toNat = if v.toNat % 128 = 0 then 1 else v.toNat % 128 := by
    revert v; decide
  exact h

/-- R231. -/
theorem mbc5RomLow_spec (m : BankController) (v : Byte) :
    (m.mbc5RomLow v).romBank.toNat = m.romBank.toNat / 256 * 256 + v.toNat ∧
    m.mbc5RomLow v = { m with romBank := (m.mbc5RomLow v).romBank } := by
  refine ⟨?_, rfl⟩
  have hz : (m.romBank &&& 0x100#9) &&& v.setWidth 9 = 0#9 := by
    have e : 0x100#9 &&& v.setWidth 9 = 0#9 := by revert v; decide
    rw [BitVec.and_assoc, e, BitVec.and_zero]
  have hl : (m.romBank &&& 0x100#9).toNat = m.romBank.toNat / 256 * 256 := by
    generalize m.romBank = r; revert r; decide
  have hr : (v.setWidth 9).toNat = v.toNat := by clear hz; revert v; decide
  rw [BankController.mbc5RomLow, toNat_or_of_disjoint hz, hl, hr]

/-- R232. -/
theorem mbc5RomHigh_spec (m : BankController) (v : Byte) :
    (m.mbc5RomHigh v).romBank.toNat = v.toNat % 2 * 256 + m.romBank.toNat % 256 ∧
    m.mbc5RomHigh v = { m with romBank := (m.mbc5RomHigh v).romBank } := by
  refine ⟨?_, rfl⟩
  have hz : (m.romBank &&& 0x0FF#9) &&& ((v &&& 0x01#8).setWidth 9 <<< 8) = 0#9 := by
    have e : 0x0FF#9 &&& ((v &&& 0x01#8).setWidth 9 <<< 8) = 0#9 := by revert v; decide
    rw [BitVec.and_assoc, e, BitVec.and_zero]
  have hl : (m.romBank &&& 0x0FF#9).toNat = m.romBank.toNat % 256 := by
    generalize m.romBank = r; revert r; decide
  have hr : ((v &&& 0x01#8).setWidth 9 <<< 8).toNat = v.toNat % 2 * 256 := by clear hz; revert v; decide
  rw [BankController.mbc5RomHigh, toNat_or_of_disjoint hz, hl, hr, Nat.add_comm]

/-- R233. -/
theorem ramBankFourBits_spec (m : BankController) (v : Byte) :
    (m.ramBankFourBits v).ramBank.toNat = v.toNat % 16 ∧
    m.ramBankFourBits v = { m with ramBank := (m.ramBankFourBits v).ramBank } := by
  refine ⟨?_, rfl⟩
  have h : ((v &&& 0x0F#8).setWidth 4).toNat = v.toNat % 16 := by revert v; decide
  exact h

/-! ### Indices -/

/-- At or above the base of its window an offset is the natural difference. -/
theorem offsetFrom_eq {base addr : Word} (h : base.toNat ≤ addr.toNat) :
    offsetFrom base addr = addr.toNat - base.toNat := by
  rw [offsetFrom, BitVec.toNat_sub]
  have := addr.isLt
  omega

/-- R70. -/
theorem romIndexX_eq (m : BankController) {addr : Word} (h : 0x4000 ≤ addr.toNat) :
    romIndexX m addr = (addr.toNat - 0x4000) + m.romBank.toNat * 0x4000 := by
  rw [romIndexX, offsetFrom_eq (base := 0x4000#16) h]
  rfl

/-- R71. -/
theorem xramIndex_eq (m : BankController) {addr : Word} (h : 0xA000 ≤ addr.toNat) :
    xramIndex m addr = (addr.toNat - 0xA000) + m.ramBank.toNat * 0x2000 := by
  rw [xramIndex, offsetFrom_eq (base := 0xA000#16) h]
  rfl

/-- R74. -/
theorem hramIndex_eq {addr : Word} (h : 0xFF80 ≤ addr.toNat) : hramIndex addr = addr.toNat - 0xFF80 := by
  rw [hramIndex, offsetFrom_eq (base := 0xFF80#16) h]
  rfl

/-- R73 in numbers: the work RAM window and its mirror. -/
theorem wramIndex_spec {addr : Word} (h : 0xC000 ≤ addr.toNat) :
    wramIndex addr = if addr.toNat < 0xE000 then addr.toNat - 0xC000 else addr.toNat - 0xE000 := by
  have hlt := addr.isLt
  have e : (addr &&& 0x1FFF#16).toNat = addr.toNat % 8192 := by
    rw [BitVec.toNat_and]
    exact Nat.and_two_pow_sub_one_eq_mod addr.toNat 13
  rw [wramIndex, e]
  split <;> omega

/-- R73: always in range. -/
theorem wramIndex_lt (addr : Word) : wramIndex addr < wramSize := by
  have h : (addr &&& 0x1FFF#16).toNat ≤ 0x1FFF := by
    rw [BitVec.toNat_and]
    exact Nat.and_le_right
  exact Nat.lt_succ_of_le h

/-- R74: in range inside the window. -/
theorem hramIndex_lt {addr : Word}
    (h : 0xFF80 ≤ addr.toNat) (h' : addr.toNat ≤ 0xFFFE) :
    hramIndex addr < hramSize := by
  rw [hramIndex_eq h, hramSize]
  omega

/-! ### Flags -/

/-- R23: whatever is stored into F has a zero low nibble. -/
theorem flagByte_low (v : Byte) : flagByte v &&& 0x0F#8 = 0#8 := by revert v; decide

/-! ### The bus primitives, region by region (R61, R170, R180) -/

theorem memRead_rom0 (cfg : Config) (sp : AddressSpace) {addr : Word} (h' : addr.toNat ≤ 0x3FFF) :
    memRead cfg sp addr = romByte cfg (romIndex0 addr) := by
  rw [memRead, if_pos h']

theorem memRead_romx (cfg : Config) (sp : AddressSpace) {addr : Word}
    (h : 0x4000 ≤ addr.toNat) (h' : addr.toNat ≤ 0x7FFF) :
    memRead cfg sp addr = romByte cfg (romIndexX sp.mbc addr) := by
  unfold memRead
  repeat rw [if_neg (by omega)]
  exact if_pos h'

theorem memRead_gap8 (cfg : Config) (sp : AddressSpace) {addr : Word}
    (h : 0x8000 ≤ addr.toNat) (h' : addr.toNat ≤ 0x9FFF) :
    memRead cfg sp addr = openBus := by
  unfold memRead
  repeat rw [if_neg (by omega)]
  exact if_pos h'

theorem memRead_xram (cfg : Config) (sp : AddressSpace) {addr : Word}
    (h : 0xA000 ≤ addr.toNat) (h' : addr.toNat ≤ 0xBFFF) :
    memRead cfg sp addr = sp.readXram cfg addr := by
  unfold memRead
  repeat rw [if_neg (by omega)]
  exact if_pos h'

theorem memRead_wram (cfg : Config) (sp : AddressSpace) {addr : Word}
    (h : 0xC000 ≤ addr.toNat) (h' : addr.toNat ≤ 0xDFFF) :
    memRead cfg sp addr = sp.readWram addr := by
  unfold memRead
  repeat rw [if_neg (by omega)]
  exact if_pos h'

theorem memRead_echo (cfg : Config) (sp : AddressSpace) {addr : Word}
    (h : 0xE000 ≤ addr.toNat) (h' : addr.toNat ≤ 0xFDFF) :
    memRead cfg sp addr = sp.readWram addr := by
  unfold memRead
  repeat rw [if_neg (by omega)]
  exact if_pos h'

theorem memRead_gapfe (cfg : Config) (sp : AddressSpace) {addr : Word}
    (h : 0xFE00 ≤ addr.toNat) (h' : addr.toNat ≤ 0xFEFF) :
    memRead cfg sp addr = openBus := by
  unfold memRead
  repeat rw [if_neg (by omega)]
  exact if_pos h'

theorem memRead_io (cfg : Config) (sp : AddressSpace) {addr : Word}
    (h : 0xFF00 ≤ addr.toNat) (h' : addr.toNat ≤ 0xFF7F) :
    memRead cfg sp addr = openBus := by
  unfold memRead
  repeat rw [if_neg (by omega)]
  exact if_pos h'

theorem memRead_hram (cfg : Config) (sp : AddressSpace) {addr : Word}
    (h : 0xFF80 ≤ addr.toNat) (h' : addr.toNat ≤ 0xFFFE) :
    memRead cfg sp addr = sp.readHram addr := by
  unfold memRead
  repeat rw [if_neg (by omega)]
  exact if_pos h'

theorem memRead_ie (cfg : Config) (sp : AddressSpace) {addr : Word} (h : 0xFFFF ≤ addr.toNat) :
    memRead cfg sp addr = sp.ie := by
  unfold memRead
  repeat rw [if_neg (by omega)]

theorem memWrite_control (cfg : Config) (sp : AddressSpace) {addr : Word} (v : Byte)
    (h' : addr.toNat ≤ 0x7FFF) :
    memWrite cfg sp addr v = { sp with mbc := sp.mbc.control cfg.variant addr v } := by
  rw [memWrite, if_pos h']

theorem memWrite_gap8 (cfg : Config) (sp : AddressSpace) {addr : Word} (v : Byte)
    (h : 0x8000 ≤ addr.toNat) (h' : addr.toNat ≤ 0x9FFF) :
    memWrite cfg sp addr v = sp := by
  unfold memWrite
  repeat rw [if_neg (by omega)]
  exact if_pos h'

theorem memWrite_xram (cfg : Config) (sp : AddressSpace) {addr : Word} (v : Byte)
    (h : 0xA000 ≤ addr.toNat) (h' : addr.toNat ≤ 0xBFFF) :
    memWrite cfg sp addr v = sp.writeXram cfg addr v := by
  unfold memWrite
  repeat rw [if_neg (by omega)]
  exact if_pos h'

theorem memWrite_wram (cfg : Config) (sp : AddressSpace) {addr : Word} (v : Byte)
    (h : 0xC000 ≤ addr.toNat) (h' : addr.toNat ≤ 0xDFFF) :
    memWrite cfg sp addr v = sp.writeWram addr v := by
  unfold memWrite
  repeat rw [if_neg (by omega)]
  exact if_pos h'

theorem memWrite_echo (cfg : Config) (sp : AddressSpace) {addr : Word} (v : Byte)
    (h : 0xE000 ≤ addr.toNat) (h' : addr.toNat ≤ 0xFDFF) :
    memWrite cfg sp addr v = sp.writeWram addr v := by
  unfold memWrite
  repeat rw [if_neg (by omega)]
  exact if_pos h'

theorem memWrite_gapfe (cfg : Config) (sp : AddressSpace) {addr : Word} (v : Byte)
    (h : 0xFE00 ≤ addr.toNat) (h' : addr.toNat ≤ 0xFEFF) :
    memWrite cfg sp addr v = sp := by
  unfold memWrite
  repeat rw [if_neg (by omega)]
  exact if_pos h'

theorem memWrite_io (cfg : Config) (sp : AddressSpace) {addr : Word} (v : Byte)
    (h : 0xFF00 ≤ addr.toNat) (h' : addr.toNat ≤ 0xFF7F) :
    memWrite cfg sp addr v = sp := by
  unfold memWrite
  repeat rw [if_neg (by omega)]
  exact if_pos h'

theorem memWrite_hram (cfg : Config) (sp : AddressSpace) {addr : Word} (v : Byte)
    (h : 0xFF80 ≤ addr.toNat) (h' : addr.toNat ≤ 0xFFFE) :
    memWrite cfg sp addr v = sp.writeHram addr v := by
  unfold memWrite
  repeat rw [if_neg (by omega)]
  exact if_pos h'

theorem memWrite_ie (cfg : Config) (sp : AddressSpace) {addr : Word} (v : Byte)
    (h : 0xFFFF ≤ addr.toNat) :
    memWrite cfg sp addr v = sp.writeIe v := by
  unfold memWrite
  repeat rw [if_neg (by omega)]

end Sys2Proof.Machine
end

