-- ==== Sys2Proof/Laws/State.lean ====
section
/-! SUPPORT. One lemma per field per update, true by unfolding, so that no later proof unfolds a record update. -/

namespace Sys2Proof.Machine

/-! ### State -/

@[simp] theorem State.answer_cfg (s : State) (r : Reply) : (s.answer r).cfg = s.cfg := rfl
@[simp] theorem State.answer_rf (s : State) (r : Reply) : (s.answer r).rf = s.rf := rfl
@[simp] theorem State.answer_bus (s : State) (r : Reply) : (s.answer r).bus = s.bus := rfl
@[simp] theorem State.answer_pending (s : State) (r : Reply) : (s.answer r).pending = s.pending := rfl
@[simp] theorem State.answer_reply (s : State) (r : Reply) : (s.answer r).reply = r := rfl

@[simp] theorem State.toRegs_cfg (s : State) (g : RegisterFile) (r : Reply) : (s.toRegs g r).cfg = s.cfg := rfl
@[simp] theorem State.toRegs_rf (s : State) (g : RegisterFile) (r : Reply) : (s.toRegs g r).rf = g := rfl
@[simp] theorem State.toRegs_bus (s : State) (g : RegisterFile) (r : Reply) : (s.toRegs g r).bus = s.bus := rfl
@[simp] theorem State.toRegs_pending (s : State) (g : RegisterFile) (r : Reply) :
    (s.toRegs g r).pending = s.pending := rfl
@[simp] theorem State.toRegs_reply (s : State) (g : RegisterFile) (r : Reply) : (s.toRegs g r).reply = r := rfl

@[simp] theorem State.toBus_cfg (s : State) (sp : AddressSpace) : (s.toBus sp).cfg = s.cfg := rfl
@[simp] theorem State.toBus_rf (s : State) (sp : AddressSpace) : (s.toBus sp).rf = s.rf := rfl
@[simp] theorem State.toBus_bus (s : State) (sp : AddressSpace) : (s.toBus sp).bus = sp := rfl
@[simp] theorem State.toBus_pending (s : State) (sp : AddressSpace) : (s.toBus sp).pending = s.pending := rfl
@[simp] theorem State.toBus_reply (s : State) (sp : AddressSpace) : (s.toBus sp).reply = .nothing := rfl

@[simp] theorem State.toMbc_cfg (s : State) (m : BankController) : (s.toMbc m).cfg = s.cfg := rfl
@[simp] theorem State.toMbc_rf (s : State) (m : BankController) : (s.toMbc m).rf = s.rf := rfl
@[simp] theorem State.toMbc_bus (s : State) (m : BankController) : (s.toMbc m).bus = { s.bus with mbc := m } := rfl
@[simp] theorem State.toMbc_pending (s : State) (m : BankController) : (s.toMbc m).pending = s.pending := rfl
@[simp] theorem State.toMbc_reply (s : State) (m : BankController) : (s.toMbc m).reply = .nothing := rfl

@[simp] theorem State.present_cfg (s : State) (t : TWord) : (s.present t).cfg = s.cfg := rfl
@[simp] theorem State.present_rf (s : State) (t : TWord) : (s.present t).rf = s.rf := rfl
@[simp] theorem State.present_bus (s : State) (t : TWord) : (s.present t).bus = s.bus := rfl
@[simp] theorem State.present_pending (s : State) (t : TWord) : (s.present t).pending = t :: s.pending := rfl
@[simp] theorem State.present_reply (s : State) (t : TWord) : (s.present t).reply = s.reply := rfl

@[simp] theorem State.present_context (s : State) (t : TWord) : (s.present t).context = s.context := rfl
@[simp] theorem State.takeWord_present (s : State) (t : TWord) : (s.present t).takeWord = some (t, s) := rfl
@[simp] theorem State.toBus_context (s : State) (sp : AddressSpace) :
    (s.toBus sp).context = ⟨s.cfg.variant, sp.mbc.bankMode⟩ := rfl
@[simp] theorem State.toRegs_context (s : State) (g : RegisterFile) (r : Reply) :
    (s.toRegs g r).context = s.context := rfl
@[simp] theorem State.answer_context (s : State) (r : Reply) : (s.answer r).context = s.context := rfl

/-! ### RegisterFile -/

@[simp] theorem RegisterFile.bumpPc_a (g : RegisterFile) : g.bumpPc.a = g.a := rfl
@[simp] theorem RegisterFile.bumpPc_b (g : RegisterFile) : g.bumpPc.b = g.b := rfl
@[simp] theorem RegisterFile.bumpPc_c (g : RegisterFile) : g.bumpPc.c = g.c := rfl
@[simp] theorem RegisterFile.bumpPc_d (g : RegisterFile) : g.bumpPc.d = g.d := rfl
@[simp] theorem RegisterFile.bumpPc_e (g : RegisterFile) : g.bumpPc.e = g.e := rfl
@[simp] theorem RegisterFile.bumpPc_f (g : RegisterFile) : g.bumpPc.f = g.f := rfl
@[simp] theorem RegisterFile.bumpPc_h (g : RegisterFile) : g.bumpPc.h = g.h := rfl
@[simp] theorem RegisterFile.bumpPc_l (g : RegisterFile) : g.bumpPc.l = g.l := rfl
@[simp] theorem RegisterFile.bumpPc_sp (g : RegisterFile) : g.bumpPc.sp = g.sp := rfl
@[simp] theorem RegisterFile.bumpPc_pc (g : RegisterFile) : g.bumpPc.pc = g.pc + 1#16 := rfl
@[simp] theorem RegisterFile.bumpPc_halted (g : RegisterFile) : g.bumpPc.halted = g.halted := rfl
@[simp] theorem RegisterFile.bumpPc_stopped (g : RegisterFile) : g.bumpPc.stopped = g.stopped := rfl
@[simp] theorem RegisterFile.bumpPc_ime (g : RegisterFile) : g.bumpPc.ime = g.ime := rfl

@[simp] theorem RegisterFile.incHl_a (g : RegisterFile) :
    g.incHl.a = g.a := by
  unfold RegisterFile.incHl; split <;> rfl
@[simp] theorem RegisterFile.incHl_b (g : RegisterFile) :
    g.incHl.b = g.b := by
  unfold RegisterFile.incHl; split <;> rfl
@[simp] theorem RegisterFile.incHl_c (g : RegisterFile) :
    g.incHl.c = g.c := by
  unfold RegisterFile.incHl; split <;> rfl
@[simp] theorem RegisterFile.incHl_d (g : RegisterFile) :
    g.incHl.d = g.d := by
  unfold RegisterFile.incHl; split <;> rfl
@[simp] theorem RegisterFile.incHl_e (g : RegisterFile) :
    g.incHl.e = g.e := by
  unfold RegisterFile.incHl; split <;> rfl
@[simp] theorem RegisterFile.incHl_f (g : RegisterFile) :
    g.incHl.f = g.f := by
  unfold RegisterFile.incHl; split <;> rfl
@[simp] theorem RegisterFile.incHl_sp (g : RegisterFile) :
    g.incHl.sp = g.sp := by
  unfold RegisterFile.incHl; split <;> rfl
@[simp] theorem RegisterFile.incHl_pc (g : RegisterFile) :
    g.incHl.pc = g.pc := by
  unfold RegisterFile.incHl; split <;> rfl
@[simp] theorem RegisterFile.incHl_halted (g : RegisterFile) :
    g.incHl.halted = g.halted := by
  unfold RegisterFile.incHl; split <;> rfl
@[simp] theorem RegisterFile.incHl_stopped (g : RegisterFile) :
    g.incHl.stopped = g.stopped := by
  unfold RegisterFile.incHl; split <;> rfl
@[simp] theorem RegisterFile.incHl_ime (g : RegisterFile) :
    g.incHl.ime = g.ime := by
  unfold RegisterFile.incHl; split <;> rfl

@[simp] theorem RegisterFile.decHl_a (g : RegisterFile) :
    g.decHl.a = g.a := by
  unfold RegisterFile.decHl; split <;> rfl
@[simp] theorem RegisterFile.decHl_b (g : RegisterFile) :
    g.decHl.b = g.b := by
  unfold RegisterFile.decHl; split <;> rfl
@[simp] theorem RegisterFile.decHl_c (g : RegisterFile) :
    g.decHl.c = g.c := by
  unfold RegisterFile.decHl; split <;> rfl
@[simp] theorem RegisterFile.decHl_d (g : RegisterFile) :
    g.decHl.d = g.d := by
  unfold RegisterFile.decHl; split <;> rfl
@[simp] theorem RegisterFile.decHl_e (g : RegisterFile) :
    g.decHl.e = g.e := by
  unfold RegisterFile.decHl; split <;> rfl
@[simp] theorem RegisterFile.decHl_f (g : RegisterFile) :
    g.decHl.f = g.f := by
  unfold RegisterFile.decHl; split <;> rfl
@[simp] theorem RegisterFile.decHl_sp (g : RegisterFile) :
    g.decHl.sp = g.sp := by
  unfold RegisterFile.decHl; split <;> rfl
@[simp] theorem RegisterFile.decHl_pc (g : RegisterFile) :
    g.decHl.pc = g.pc := by
  unfold RegisterFile.decHl; split <;> rfl
@[simp] theorem RegisterFile.decHl_halted (g : RegisterFile) :
    g.decHl.halted = g.halted := by
  unfold RegisterFile.decHl; split <;> rfl
@[simp] theorem RegisterFile.decHl_stopped (g : RegisterFile) :
    g.decHl.stopped = g.stopped := by
  unfold RegisterFile.decHl; split <;> rfl
@[simp] theorem RegisterFile.decHl_ime (g : RegisterFile) :
    g.decHl.ime = g.ime := by
  unfold RegisterFile.decHl; split <;> rfl

@[simp] theorem RegisterFile.write8_sp (g : RegisterFile) (r : Reg8) (v : Byte) :
    (g.write8 r v).sp = g.sp := by
  cases r <;> rfl
@[simp] theorem RegisterFile.write8_pc (g : RegisterFile) (r : Reg8) (v : Byte) :
    (g.write8 r v).pc = g.pc := by
  cases r <;> rfl
@[simp] theorem RegisterFile.write8_halted (g : RegisterFile) (r : Reg8) (v : Byte) :
    (g.write8 r v).halted = g.halted := by
  cases r <;> rfl
@[simp] theorem RegisterFile.write8_stopped (g : RegisterFile) (r : Reg8) (v : Byte) :
    (g.write8 r v).stopped = g.stopped := by
  cases r <;> rfl
@[simp] theorem RegisterFile.write8_ime (g : RegisterFile) (r : Reg8) (v : Byte) :
    (g.write8 r v).ime = g.ime := by
  cases r <;> rfl

@[simp] theorem RegisterFile.write16_halted (g : RegisterFile) (p : View16) (v : Word) :
    (g.write16 p v).halted = g.halted := by
  cases p <;> rfl
@[simp] theorem RegisterFile.write16_stopped (g : RegisterFile) (p : View16) (v : Word) :
    (g.write16 p v).stopped = g.stopped := by
  cases p <;> rfl
@[simp] theorem RegisterFile.write16_ime (g : RegisterFile) (p : View16) (v : Word) :
    (g.write16 p v).ime = g.ime := by
  cases p <;> rfl

@[simp] theorem RegisterFile.setLatch_a (g : RegisterFile) (c : Latch) (x : Bool) :
    (g.setLatch c x).a = g.a := by
  cases c <;> rfl
@[simp] theorem RegisterFile.setLatch_b (g : RegisterFile) (c : Latch) (x : Bool) :
    (g.setLatch c x).b = g.b := by
  cases c <;> rfl
@[simp] theorem RegisterFile.setLatch_c (g : RegisterFile) (c : Latch) (x : Bool) :
    (g.setLatch c x).c = g.c := by
  cases c <;> rfl
@[simp] theorem RegisterFile.setLatch_d (g : RegisterFile) (c : Latch) (x : Bool) :
    (g.setLatch c x).d = g.d := by
  cases c <;> rfl
@[simp] theorem RegisterFile.setLatch_e (g : RegisterFile) (c : Latch) (x : Bool) :
    (g.setLatch c x).e = g.e := by
  cases c <;> rfl
@[simp] theorem RegisterFile.setLatch_f (g : RegisterFile) (c : Latch) (x : Bool) :
    (g.setLatch c x).f = g.f := by
  cases c <;> rfl
@[simp] theorem RegisterFile.setLatch_h (g : RegisterFile) (c : Latch) (x : Bool) :
    (g.setLatch c x).h = g.h := by
  cases c <;> rfl
@[simp] theorem RegisterFile.setLatch_l (g : RegisterFile) (c : Latch) (x : Bool) :
    (g.setLatch c x).l = g.l := by
  cases c <;> rfl
@[simp] theorem RegisterFile.setLatch_sp (g : RegisterFile) (c : Latch) (x : Bool) :
    (g.setLatch c x).sp = g.sp := by
  cases c <;> rfl
@[simp] theorem RegisterFile.setLatch_pc (g : RegisterFile) (c : Latch) (x : Bool) :
    (g.setLatch c x).pc = g.pc := by
  cases c <;> rfl

@[simp] theorem RegisterFile.latch_setLatch_same (g : RegisterFile) (c : Latch) (x : Bool) :
    (g.setLatch c x).latch c = x := by
  cases c <;> rfl

theorem RegisterFile.latch_setLatch_other (g : RegisterFile) {c d : Latch} (x : Bool) (h : c ≠ d) :
    (g.setLatch c x).latch d = g.latch d := by
  cases c <;> cases d <;> first | rfl | exact absurd rfl h

theorem RegisterFile.read8_write8_same (g : RegisterFile) (r : Reg8) (v : Byte) :
    (g.write8 r v).read8 r = if r = .f then flagByte v else v := by
  cases r <;> rfl

theorem RegisterFile.read8_write8_other (g : RegisterFile) {r q : Reg8} (v : Byte) (h : r ≠ q) :
    (g.write8 r v).read8 q = g.read8 q := by
  cases r <;> cases q <;> first | rfl | exact absurd rfl h

/-! ### The bank controller -/

@[simp] theorem BankController.ramEnable_romBank (m : BankController) (v : Byte) :
    (m.ramEnable v).romBank = m.romBank := rfl
@[simp] theorem BankController.ramEnable_ramBank (m : BankController) (v : Byte) :
    (m.ramEnable v).ramBank = m.ramBank := rfl
@[simp] theorem BankController.ramEnable_bankMode (m : BankController) (v : Byte) :
    (m.ramEnable v).bankMode = m.bankMode := rfl
@[simp] theorem BankController.mbc1RomLow_ramBank (m : BankController) (v : Byte) :
    (m.mbc1RomLow v).ramBank = m.ramBank := rfl
@[simp] theorem BankController.mbc1RomLow_ramEnabled (m : BankController) (v : Byte) :
    (m.mbc1RomLow v).ramEnabled = m.ramEnabled := rfl
@[simp] theorem BankController.mbc1RomLow_bankMode (m : BankController) (v : Byte) :
    (m.mbc1RomLow v).bankMode = m.bankMode := rfl
@[simp] theorem BankController.mbc1RomHigh_ramBank (m : BankController) (v : Byte) :
    (m.mbc1RomHigh v).ramBank = m.ramBank := rfl
@[simp] theorem BankController.mbc1RomHigh_ramEnabled (m : BankController) (v : Byte) :
    (m.mbc1RomHigh v).ramEnabled = m.ramEnabled := rfl
@[simp] theorem BankController.mbc1RomHigh_bankMode (m : BankController) (v : Byte) :
    (m.mbc1RomHigh v).bankMode = m.bankMode := rfl
@[simp] theorem BankController.ramBankTwoBits_romBank (m : BankController) (v : Byte) :
    (m.ramBankTwoBits v).romBank = m.romBank := rfl
@[simp] theorem BankController.ramBankTwoBits_ramEnabled (m : BankController) (v : Byte) :
    (m.ramBankTwoBits v).ramEnabled = m.ramEnabled := rfl
@[simp] theorem BankController.ramBankTwoBits_bankMode (m : BankController) (v : Byte) :
    (m.ramBankTwoBits v).bankMode = m.bankMode := rfl
@[simp] theorem BankController.selectMode_romBank (m : BankController) (v : Byte) :
    (m.selectMode v).romBank = m.romBank := rfl
@[simp] theorem BankController.selectMode_ramBank (m : BankController) (v : Byte) :
    (m.selectMode v).ramBank = m.ramBank := rfl
@[simp] theorem BankController.selectMode_ramEnabled (m : BankController) (v : Byte) :
    (m.selectMode v).ramEnabled = m.ramEnabled := rfl
@[simp] theorem BankController.ramToggle_romBank (m : BankController) : m.ramToggle.romBank = m.romBank := rfl
@[simp] theorem BankController.ramToggle_ramBank (m : BankController) : m.ramToggle.ramBank = m.ramBank := rfl
@[simp] theorem BankController.ramToggle_ramEnabled (m : BankController) :
    m.ramToggle.ramEnabled = !m.ramEnabled := rfl
@[simp] theorem BankController.ramToggle_bankMode (m : BankController) : m.ramToggle.bankMode = m.bankMode := rfl
@[simp] theorem BankController.mbc2Rom_ramBank (m : BankController) (v : Byte) :
    (m.mbc2Rom v).ramBank = m.ramBank := rfl
@[simp] theorem BankController.mbc2Rom_ramEnabled (m : BankController) (v : Byte) :
    (m.mbc2Rom v).ramEnabled = m.ramEnabled := rfl
@[simp] theorem BankController.mbc2Rom_bankMode (m : BankController) (v : Byte) :
    (m.mbc2Rom v).bankMode = m.bankMode := rfl
@[simp] theorem BankController.mbc3Rom_ramBank (m : BankController) (v : Byte) :
    (m.mbc3Rom v).ramBank = m.ramBank := rfl
@[simp] theorem BankController.mbc3Rom_ramEnabled (m : BankController) (v : Byte) :
    (m.mbc3Rom v).ramEnabled = m.ramEnabled := rfl
@[simp] theorem BankController.mbc3Rom_bankMode (m : BankController) (v : Byte) :
    (m.mbc3Rom v).bankMode = m.bankMode := rfl
@[simp] theorem BankController.mbc5RomLow_ramBank (m : BankController) (v : Byte) :
    (m.mbc5RomLow v).ramBank = m.ramBank := rfl
@[simp] theorem BankController.mbc5RomLow_ramEnabled (m : BankController) (v : Byte) :
    (m.mbc5RomLow v).ramEnabled = m.ramEnabled := rfl
@[simp] theorem BankController.mbc5RomLow_bankMode (m : BankController) (v : Byte) :
    (m.mbc5RomLow v).bankMode = m.bankMode := rfl
@[simp] theorem BankController.mbc5RomHigh_ramBank (m : BankController) (v : Byte) :
    (m.mbc5RomHigh v).ramBank = m.ramBank := rfl
@[simp] theorem BankController.mbc5RomHigh_ramEnabled (m : BankController) (v : Byte) :
    (m.mbc5RomHigh v).ramEnabled = m.ramEnabled := rfl
@[simp] theorem BankController.mbc5RomHigh_bankMode (m : BankController) (v : Byte) :
    (m.mbc5RomHigh v).bankMode = m.bankMode := rfl
@[simp] theorem BankController.ramBankFourBits_romBank (m : BankController) (v : Byte) :
    (m.ramBankFourBits v).romBank = m.romBank := rfl
@[simp] theorem BankController.ramBankFourBits_ramEnabled (m : BankController) (v : Byte) :
    (m.ramBankFourBits v).ramEnabled = m.ramEnabled := rfl
@[simp] theorem BankController.ramBankFourBits_bankMode (m : BankController) (v : Byte) :
    (m.ramBankFourBits v).bankMode = m.bankMode := rfl

/-! ### AddressSpace -/

@[simp] theorem AddressSpace.writeXram_mbc (cfg : Config) (sp : AddressSpace) (addr : Word) (v : Byte) :
    (sp.writeXram cfg addr v).mbc = sp.mbc := by
  unfold AddressSpace.writeXram; split <;> rfl
@[simp] theorem AddressSpace.writeXram_wram (cfg : Config) (sp : AddressSpace) (addr : Word) (v : Byte) :
    (sp.writeXram cfg addr v).wram = sp.wram := by
  unfold AddressSpace.writeXram; split <;> rfl
@[simp] theorem AddressSpace.writeXram_hram (cfg : Config) (sp : AddressSpace) (addr : Word) (v : Byte) :
    (sp.writeXram cfg addr v).hram = sp.hram := by
  unfold AddressSpace.writeXram; split <;> rfl
@[simp] theorem AddressSpace.writeXram_ie (cfg : Config) (sp : AddressSpace) (addr : Word) (v : Byte) :
    (sp.writeXram cfg addr v).ie = sp.ie := by
  unfold AddressSpace.writeXram; split <;> rfl

@[simp] theorem AddressSpace.writeWram_mbc (sp : AddressSpace) (addr : Word) (v : Byte) :
    (sp.writeWram addr v).mbc = sp.mbc := rfl
@[simp] theorem AddressSpace.writeWram_xram (sp : AddressSpace) (addr : Word) (v : Byte) :
    (sp.writeWram addr v).xram = sp.xram := rfl
@[simp] theorem AddressSpace.writeWram_wram (sp : AddressSpace) (addr : Word) (v : Byte) :
    (sp.writeWram addr v).wram = Memory.store wramSize sp.wram (wramIndex addr) v := rfl
@[simp] theorem AddressSpace.writeWram_hram (sp : AddressSpace) (addr : Word) (v : Byte) :
    (sp.writeWram addr v).hram = sp.hram := rfl
@[simp] theorem AddressSpace.writeWram_ie (sp : AddressSpace) (addr : Word) (v : Byte) :
    (sp.writeWram addr v).ie = sp.ie := rfl

@[simp] theorem AddressSpace.writeHram_mbc (sp : AddressSpace) (addr : Word) (v : Byte) :
    (sp.writeHram addr v).mbc = sp.mbc := rfl
@[simp] theorem AddressSpace.writeHram_xram (sp : AddressSpace) (addr : Word) (v : Byte) :
    (sp.writeHram addr v).xram = sp.xram := rfl
@[simp] theorem AddressSpace.writeHram_wram (sp : AddressSpace) (addr : Word) (v : Byte) :
    (sp.writeHram addr v).wram = sp.wram := rfl
@[simp] theorem AddressSpace.writeHram_hram (sp : AddressSpace) (addr : Word) (v : Byte) :
    (sp.writeHram addr v).hram = Memory.store hramSize sp.hram (hramIndex addr) v := rfl
@[simp] theorem AddressSpace.writeHram_ie (sp : AddressSpace) (addr : Word) (v : Byte) :
    (sp.writeHram addr v).ie = sp.ie := rfl

@[simp] theorem AddressSpace.writeIe_mbc (sp : AddressSpace) (v : Byte) : (sp.writeIe v).mbc = sp.mbc := rfl
@[simp] theorem AddressSpace.writeIe_xram (sp : AddressSpace) (v : Byte) : (sp.writeIe v).xram = sp.xram := rfl
@[simp] theorem AddressSpace.writeIe_wram (sp : AddressSpace) (v : Byte) : (sp.writeIe v).wram = sp.wram := rfl
@[simp] theorem AddressSpace.writeIe_hram (sp : AddressSpace) (v : Byte) : (sp.writeIe v).hram = sp.hram := rfl
@[simp] theorem AddressSpace.writeIe_ie (sp : AddressSpace) (v : Byte) : (sp.writeIe v).ie = v := rfl

end Sys2Proof.Machine
end

