-- ==== Sys2Proof/Laws/Invariant.lean ====
section
/-! SUPPORT. Every update of the bank controller keeps its registers legal, and every bus write keeps the buffers
canonical and inside their sizes. -/

namespace Sys2Proof.Machine

theorem controlMbc1_legal {m : BankController} (addr : Word) (v : Byte) (h : m.legal .mbc1 = true) :
    (m.controlMbc1 addr v).legal .mbc1 = true := by
  simp only [BankController.legal, Bool.and_eq_true, decide_eq_true_eq] at h
  unfold BankController.controlMbc1
  repeat' split
  all_goals simp only [BankController.legal, Bool.and_eq_true, decide_eq_true_eq]
  · exact h
  · have e := mbc1RomLow_spec m v
    rw [e.1, e.2]
    refine ⟨⟨?_, ?_⟩, h.2⟩ <;> split <;> omega
  · have e := mbc1RomHigh_spec m v
    rw [e.1, e.2]
    exact ⟨⟨by omega, by omega⟩, h.2⟩
  · have e := ramBankTwoBits_spec m v
    rw [e.1, e.2]
    exact ⟨h.1, by omega⟩
  · exact h

theorem controlMbc2_legal {m : BankController} (addr : Word) (v : Byte) (h : m.legal .mbc2 = true) :
    (m.controlMbc2 addr v).legal .mbc2 = true := by
  have h' := h
  simp only [BankController.legal, Bool.and_eq_true, decide_eq_true_eq] at h
  unfold BankController.controlMbc2
  repeat' split
  · exact h'
  · exact h'
  · have e := mbc2Rom_spec m v
    simp only [BankController.legal, Bool.and_eq_true, decide_eq_true_eq]
    rw [e.1, e.2]
    exact ⟨⟨by omega, h.1.2⟩, h.2⟩
  · exact h'
  · exact h'

theorem controlMbc3_legal {m : BankController} (addr : Word) (v : Byte) (h : m.legal .mbc3 = true) :
    (m.controlMbc3 addr v).legal .mbc3 = true := by
  have h' := h
  simp only [BankController.legal, Bool.and_eq_true, decide_eq_true_eq] at h
  unfold BankController.controlMbc3
  repeat' split
  · exact h'
  · have e := mbc3Rom_spec m v
    simp only [BankController.legal, Bool.and_eq_true, decide_eq_true_eq]
    rw [e.1, e.2]
    refine ⟨⟨⟨?_, ?_⟩, h.1.2⟩, h.2⟩ <;> split <;> omega
  · have e := ramBankTwoBits_spec m v
    simp only [BankController.legal, Bool.and_eq_true, decide_eq_true_eq]
    rw [e.1, e.2]
    exact ⟨⟨h.1.1, by omega⟩, h.2⟩
  · exact h'

theorem controlMbc5_legal {m : BankController} (addr : Word) (v : Byte) (h : m.legal .mbc5 = true) :
    (m.controlMbc5 addr v).legal .mbc5 = true := by
  unfold BankController.controlMbc5
  repeat' split
  all_goals exact h

/-- Every control write keeps the controller's registers legal (R37, R241, R242). -/
theorem control_legal {variant : Variant} {m : BankController} (addr : Word) (v : Byte)
    (h : m.legal variant = true) : (m.control variant addr v).legal variant = true := by
  cases variant
  · exact controlMbc1_legal addr v h
  · exact controlMbc2_legal addr v h
  · exact controlMbc3_legal addr v h
  · exact controlMbc5_legal addr v h

/-- An external RAM write keeps AddressSpace well formed. -/
theorem writeXram_wf {cfg : Config} {sp : AddressSpace} (addr : Word) (v : Byte) (h : sp.wf cfg = true) :
    (sp.writeXram cfg addr v).wf cfg = true := by
  unfold AddressSpace.writeXram
  split
  · simp only [AddressSpace.wf, Bool.and_eq_true] at h ⊢
    exact ⟨⟨⟨h.1.1.1, Memory.fits_store _ _ h.1.1.2⟩, h.1.2⟩, h.2⟩
  · exact h

/-- A work RAM write keeps AddressSpace well formed. -/
theorem writeWram_wf {cfg : Config} {sp : AddressSpace} (addr : Word) (v : Byte) (h : sp.wf cfg = true) :
    (sp.writeWram addr v).wf cfg = true := by
  simp only [AddressSpace.wf, Bool.and_eq_true, AddressSpace.writeWram_mbc, AddressSpace.writeWram_xram,
    AddressSpace.writeWram_wram, AddressSpace.writeWram_hram] at h ⊢
  exact ⟨⟨h.1.1, Memory.fits_store _ _ h.1.2⟩, h.2⟩

/-- A scratch RAM write keeps AddressSpace well formed. -/
theorem writeHram_wf {cfg : Config} {sp : AddressSpace} (addr : Word) (v : Byte) (h : sp.wf cfg = true) :
    (sp.writeHram addr v).wf cfg = true := by
  simp only [AddressSpace.wf, Bool.and_eq_true, AddressSpace.writeHram_mbc, AddressSpace.writeHram_xram,
    AddressSpace.writeHram_wram, AddressSpace.writeHram_hram] at h ⊢
  exact ⟨h.1, Memory.fits_store _ _ h.2⟩

/-- Every bus write keeps AddressSpace well formed. -/
theorem memWrite_wf {cfg : Config} {sp : AddressSpace} (addr : Word) (v : Byte) (h : sp.wf cfg = true) :
    (memWrite cfg sp addr v).wf cfg = true := by
  unfold memWrite
  repeat' split
  · simp only [AddressSpace.wf, Bool.and_eq_true] at h ⊢
    exact ⟨⟨⟨control_legal addr v h.1.1.1, h.1.1.2⟩, h.1.2⟩, h.2⟩
  · exact h
  · exact writeXram_wf addr v h
  · exact writeWram_wf addr v h
  · exact writeWram_wf addr v h
  · exact h
  · exact h
  · exact writeHram_wf addr v h
  · exact h

/-- The power-up writes keep AddressSpace well formed (R282). -/
theorem powerup_wf {cfg : Config} (writes : List (Word × Byte)) {sp : AddressSpace} (h : sp.wf cfg = true) :
    (sp.powerup cfg writes).wf cfg = true := by
  induction writes generalizing sp with
  | nil => exact h
  | cons w rest ih => exact ih (memWrite_wf w.1 w.2 h)

/-- R42 gives legal values under every variant. -/
theorem atReset_legal (variant : Variant) : BankController.atReset.legal variant = true := by
  cases variant <;> rfl

/-- The memory of `State.reset` is in its canonical form. -/
theorem reset_memory_wf :
    Memory.wf State.reset.bus.xram = true ∧ Memory.wf State.reset.bus.wram = true ∧
      Memory.wf State.reset.bus.hram = true ∧ Memory.wf State.reset.cfg.rom = true :=
  ⟨rfl, rfl, rfl, rfl⟩

end Sys2Proof.Machine
end

