-- ==== Sys2Proof/Laws/PerInstr.lean ====
section
/-! SUPPORT. One lemma per constructor of Instr: the operation's port decodes back to it, in every context it belongs
to. With the word layer of Laws/Decode.lean this is the round trip of the encoder. -/

namespace Sys2Proof.Laws.PortRoundTrip

/-- The port of a well-formed operation decodes to it. -/
def Statement (i : Instr) : Prop :=
  ∀ ctx : Context, i.wf = true → i.inContext ctx = true → decodePort ctx i.port = .ok i

theorem rd8 (r : Reg8) : Statement (.rd8 r) := by
  intro ctx _ _; cases r <;> rfl

theorem wr8 (r : Reg8) (v : Byte) : Statement (.wr8 r v) := by
  intro ctx _ _
  cases r <;> simp [Instr.port, decodePort, decodeReg, onSelector, whenClear, Reg8.ofCode, Reg8.code]

theorem rd16 (p : View16) : Statement (.rd16 p) := by
  intro ctx _ _; cases p <;> rfl

theorem wr16 (p : View16) (v : Word) : Statement (.wr16 p v) := by
  intro ctx _ _; cases p <;> rfl

theorem bump : Statement (.bump) := by
  intro ctx _ _; rfl

theorem inchl : Statement (.inchl) := by
  intro ctx _ _; rfl

theorem dechl : Statement (.dechl) := by
  intro ctx _ _; rfl

theorem ftest (m : Byte) : Statement (.ftest m) := by
  intro ctx _ _
  simp [Instr.port, decodePort, decodeReg, whenClear]

theorem fset (m : Byte) : Statement (.fset m) := by
  intro ctx _ _
  simp [Instr.port, decodePort, decodeReg, whenClear]

theorem fclr (m : Byte) : Statement (.fclr m) := by
  intro ctx _ _
  simp [Instr.port, decodePort, decodeReg, whenClear]

theorem fput (m : Byte) (b : Bool) : Statement (.fput m b) := by
  intro ctx _ _
  cases b <;> simp [Instr.port, decodePort, decodeReg, whenClear, boolSel]

theorem rdctl (c : Latch) : Statement (.rdctl c) := by
  intro ctx _ _; cases c <;> rfl

theorem wrctl (c : Latch) (b : Bool) : Statement (.wrctl c b) := by
  intro ctx _ _; cases c <;> cases b <;> rfl

theorem rdRom0 (addr : Word) : Statement (.rdRom0 addr) := by
  intro ctx hw _
  simp only [Instr.wf, inWindow, Bool.and_eq_true, decide_eq_true_eq] at hw
  refine congrArg Except.ok ?_
  simp only [decodeRead, extract_eq_iff, BitVec.toNat_ofNat, BitVec.toNat_eq (y := 0xFFFF#16)]
  exact if_pos (by omega)

theorem rdRomx (addr : Word) : Statement (.rdRomx addr) := by
  intro ctx hw _
  simp only [Instr.wf, inWindow, Bool.and_eq_true, decide_eq_true_eq] at hw
  refine congrArg Except.ok ?_
  simp only [decodeRead, extract_eq_iff, BitVec.toNat_ofNat, BitVec.toNat_eq (y := 0xFFFF#16)]
  repeat' first
    | exact if_pos (by omega)
    | rw [if_neg (by omega)]

theorem rdGap8 (addr : Word) : Statement (.rdGap8 addr) := by
  intro ctx hw _
  simp only [Instr.wf, inWindow, Bool.and_eq_true, decide_eq_true_eq] at hw
  refine congrArg Except.ok ?_
  simp only [decodeRead, extract_eq_iff, BitVec.toNat_ofNat, BitVec.toNat_eq (y := 0xFFFF#16)]
  repeat' first
    | exact if_pos (by omega)
    | rw [if_neg (by omega)]

theorem rdXram (addr : Word) : Statement (.rdXram addr) := by
  intro ctx hw _
  simp only [Instr.wf, inWindow, Bool.and_eq_true, decide_eq_true_eq] at hw
  refine congrArg Except.ok ?_
  simp only [decodeRead, extract_eq_iff, BitVec.toNat_ofNat, BitVec.toNat_eq (y := 0xFFFF#16)]
  repeat' first
    | exact if_pos (by omega)
    | rw [if_neg (by omega)]

theorem rdWram (addr : Word) : Statement (.rdWram addr) := by
  intro ctx hw _
  simp only [Instr.wf, inWindow, Bool.and_eq_true, decide_eq_true_eq] at hw
  refine congrArg Except.ok ?_
  simp only [decodeRead, extract_eq_iff, BitVec.toNat_ofNat, BitVec.toNat_eq (y := 0xFFFF#16)]
  repeat' first
    | exact if_pos (by omega)
    | rw [if_neg (by omega)]

theorem rdIe : Statement (.rdIe) := by
  intro ctx _ _; rfl

theorem rdHram (addr : Word) : Statement (.rdHram addr) := by
  intro ctx hw _
  simp only [Instr.wf, inWindow, Bool.and_eq_true, decide_eq_true_eq] at hw
  refine congrArg Except.ok ?_
  simp only [decodeRead, extract_eq_iff, BitVec.toNat_ofNat, BitVec.toNat_eq (y := 0xFFFF#16)]
  repeat' first
    | exact if_pos (by omega)
    | rw [if_neg (by omega)]

theorem rdIo (addr : Word) : Statement (.rdIo addr) := by
  intro ctx hw _
  simp only [Instr.wf, inWindow, Bool.and_eq_true, decide_eq_true_eq] at hw
  refine congrArg Except.ok ?_
  simp only [decodeRead, extract_eq_iff, BitVec.toNat_ofNat, BitVec.toNat_eq (y := 0xFFFF#16)]
  repeat' first
    | exact if_pos (by omega)
    | rw [if_neg (by omega)]

theorem rdGapfe (addr : Word) : Statement (.rdGapfe addr) := by
  intro ctx hw _
  simp only [Instr.wf, inWindow, Bool.and_eq_true, decide_eq_true_eq] at hw
  refine congrArg Except.ok ?_
  simp only [decodeRead, extract_eq_iff, BitVec.toNat_ofNat, BitVec.toNat_eq (y := 0xFFFF#16)]
  repeat' first
    | exact if_pos (by omega)
    | rw [if_neg (by omega)]

theorem rdEcho (addr : Word) : Statement (.rdEcho addr) := by
  intro ctx hw _
  simp only [Instr.wf, inWindow, Bool.and_eq_true, decide_eq_true_eq] at hw
  refine congrArg Except.ok ?_
  simp only [decodeRead, extract_eq_iff, BitVec.toNat_ofNat, BitVec.toNat_eq (y := 0xFFFF#16)]
  repeat' first
    | exact if_pos (by omega)
    | rw [if_neg (by omega)]

theorem wrMbc1Ramen (addr : Word) (v : Byte) : Statement (.wrMbc1Ramen addr v) := by
  intro ctx hw hc
  obtain ⟨variant, mode⟩ := ctx
  simp only [Instr.inContext, decide_eq_true_eq] at hc
  subst hc
  simp only [Instr.wf, inWindow, Bool.and_eq_true, decide_eq_true_eq] at hw
  refine congrArg Except.ok ((decodeWrite_control _ _ (by omega)).trans ?_)
  simp only [decodeControl, decodeMbc1, extract_eq_iff, BitVec.toNat_ofNat]
  exact if_pos (by omega)

theorem wrMbc1Romb (addr : Word) (v : Byte) : Statement (.wrMbc1Romb addr v) := by
  intro ctx hw hc
  obtain ⟨variant, mode⟩ := ctx
  simp only [Instr.inContext, decide_eq_true_eq] at hc
  subst hc
  simp only [Instr.wf, inWindow, Bool.and_eq_true, decide_eq_true_eq] at hw
  refine congrArg Except.ok ((decodeWrite_control _ _ (by omega)).trans ?_)
  simp only [decodeControl, decodeMbc1, extract_eq_iff, BitVec.toNat_ofNat]
  repeat' first
    | exact if_pos (by omega)
    | rw [if_neg (by omega)]

theorem wrMbc1Rombhi (addr : Word) (v : Byte) : Statement (.wrMbc1Rombhi addr v) := by
  intro ctx hw hc
  obtain ⟨variant, mode⟩ := ctx
  simp only [Instr.inContext, Bool.and_eq_true, decide_eq_true_eq] at hc
  obtain ⟨rfl, rfl⟩ := hc
  simp only [Instr.wf, inWindow, Bool.and_eq_true, decide_eq_true_eq] at hw
  refine congrArg Except.ok ((decodeWrite_control _ _ (by omega)).trans ?_)
  simp only [decodeControl, decodeMbc1, extract_eq_iff, BitVec.toNat_ofNat]
  repeat' first
    | exact if_pos (by omega)
    | rw [if_neg (by omega)]

theorem wrMbc1Ramb (addr : Word) (v : Byte) : Statement (.wrMbc1Ramb addr v) := by
  intro ctx hw hc
  obtain ⟨variant, mode⟩ := ctx
  simp only [Instr.inContext, Bool.and_eq_true, decide_eq_true_eq] at hc
  obtain ⟨rfl, rfl⟩ := hc
  simp only [Instr.wf, inWindow, Bool.and_eq_true, decide_eq_true_eq] at hw
  refine congrArg Except.ok ((decodeWrite_control _ _ (by omega)).trans ?_)
  simp only [decodeControl, decodeMbc1, extract_eq_iff, BitVec.toNat_ofNat]
  repeat' first
    | exact if_pos (by omega)
    | rw [if_neg (by omega)]

theorem wrMbc1Mode (addr : Word) (v : Byte) : Statement (.wrMbc1Mode addr v) := by
  intro ctx hw hc
  obtain ⟨variant, mode⟩ := ctx
  simp only [Instr.inContext, decide_eq_true_eq] at hc
  subst hc
  simp only [Instr.wf, inWindow, Bool.and_eq_true, decide_eq_true_eq] at hw
  refine congrArg Except.ok ((decodeWrite_control _ _ (by omega)).trans ?_)
  simp only [decodeControl, decodeMbc1, extract_eq_iff, BitVec.toNat_ofNat]
  repeat' first
    | exact if_pos (by omega)
    | rw [if_neg (by omega)]

theorem wrMbc2Ramtog (addr : Word) (v : Byte) : Statement (.wrMbc2Ramtog addr v) := by
  intro ctx hw hc
  obtain ⟨variant, mode⟩ := ctx
  simp only [Instr.inContext, decide_eq_true_eq] at hc
  subst hc
  simp only [Instr.wf, inWindow, Bool.and_eq_true, decide_eq_true_eq, getLsbD_eq_bit,
    Bool.not_eq_true', decide_eq_false_iff_not] at hw
  refine congrArg Except.ok ((decodeWrite_control _ _ (by omega)).trans ?_)
  simp only [decodeControl, decodeMbc2, extract_eq_iff, BitVec.toNat_ofNat, getLsbD_eq_bit, decide_eq_true_eq]
  repeat' first
    | exact if_pos (by omega)
    | rw [if_pos (by omega)]
    | rw [if_neg (by omega)]

theorem wrMbc2Nop0 (addr : Word) (v : Byte) : Statement (.wrMbc2Nop0 addr v) := by
  intro ctx hw hc
  obtain ⟨variant, mode⟩ := ctx
  simp only [Instr.inContext, decide_eq_true_eq] at hc
  subst hc
  simp only [Instr.wf, inWindow, Bool.and_eq_true, decide_eq_true_eq, getLsbD_eq_bit] at hw
  refine congrArg Except.ok ((decodeWrite_control _ _ (by omega)).trans ?_)
  simp only [decodeControl, decodeMbc2, extract_eq_iff, BitVec.toNat_ofNat, getLsbD_eq_bit, decide_eq_true_eq]
  repeat' first
    | exact if_pos (by omega)
    | rw [if_pos (by omega)]

theorem wrMbc2Romb (addr : Word) (v : Byte) : Statement (.wrMbc2Romb addr v) := by
  intro ctx hw hc
  obtain ⟨variant, mode⟩ := ctx
  simp only [Instr.inContext, decide_eq_true_eq] at hc
  subst hc
  simp only [Instr.wf, inWindow, Bool.and_eq_true, decide_eq_true_eq, getLsbD_eq_bit] at hw
  refine congrArg Except.ok ((decodeWrite_control _ _ (by omega)).trans ?_)
  simp only [decodeControl, decodeMbc2, extract_eq_iff, BitVec.toNat_ofNat, getLsbD_eq_bit, decide_eq_true_eq]
  repeat' first
    | exact if_pos (by omega)
    | rw [if_pos (by omega)]
    | rw [if_neg (by omega)]

theorem wrMbc2Nop2 (addr : Word) (v : Byte) : Statement (.wrMbc2Nop2 addr v) := by
  intro ctx hw hc
  obtain ⟨variant, mode⟩ := ctx
  simp only [Instr.inContext, decide_eq_true_eq] at hc
  subst hc
  simp only [Instr.wf, inWindow, Bool.and_eq_true, decide_eq_true_eq, getLsbD_eq_bit,
    Bool.not_eq_true', decide_eq_false_iff_not] at hw
  refine congrArg Except.ok ((decodeWrite_control _ _ (by omega)).trans ?_)
  simp only [decodeControl, decodeMbc2, extract_eq_iff, BitVec.toNat_ofNat, getLsbD_eq_bit, decide_eq_true_eq]
  repeat' first
    | exact if_pos (by omega)
    | rw [if_pos (by omega)]
    | rw [if_neg (by omega)]

theorem wrMbc2Nop4 (addr : Word) (v : Byte) : Statement (.wrMbc2Nop4 addr v) := by
  intro ctx hw hc
  obtain ⟨variant, mode⟩ := ctx
  simp only [Instr.inContext, decide_eq_true_eq] at hc
  subst hc
  simp only [Instr.wf, inWindow, Bool.and_eq_true, decide_eq_true_eq] at hw
  refine congrArg Except.ok ((decodeWrite_control _ _ (by omega)).trans ?_)
  simp only [decodeControl, decodeMbc2, extract_eq_iff, BitVec.toNat_ofNat, getLsbD_eq_bit, decide_eq_true_eq]
  repeat' first
    | exact if_pos (by omega)
    | rw [if_neg (by omega)]

theorem wrMbc3Ramen (addr : Word) (v : Byte) : Statement (.wrMbc3Ramen addr v) := by
  intro ctx hw hc
  obtain ⟨variant, mode⟩ := ctx
  simp only [Instr.inContext, decide_eq_true_eq] at hc
  subst hc
  simp only [Instr.wf, inWindow, Bool.and_eq_true, decide_eq_true_eq] at hw
  refine congrArg Except.ok ((decodeWrite_control _ _ (by omega)).trans ?_)
  simp only [decodeControl, decodeMbc3, extract_eq_iff, BitVec.toNat_ofNat]
  exact if_pos (by omega)

theorem wrMbc3Romb (addr : Word) (v : Byte) : Statement (.wrMbc3Romb addr v) := by
  intro ctx hw hc
  obtain ⟨variant, mode⟩ := ctx
  simp only [Instr.inContext, decide_eq_true_eq] at hc
  subst hc
  simp only [Instr.wf, inWindow, Bool.and_eq_true, decide_eq_true_eq] at hw
  refine congrArg Except.ok ((decodeWrite_control _ _ (by omega)).trans ?_)
  simp only [decodeControl, decodeMbc3, extract_eq_iff, BitVec.toNat_ofNat]
  repeat' first
    | exact if_pos (by omega)
    | rw [if_neg (by omega)]

theorem wrMbc3Ramb (addr : Word) (v : Byte) : Statement (.wrMbc3Ramb addr v) := by
  intro ctx hw hc
  obtain ⟨variant, mode⟩ := ctx
  simp only [Instr.inContext, decide_eq_true_eq] at hc
  subst hc
  simp only [Instr.wf, inWindow, Bool.and_eq_true, decide_eq_true_eq] at hw
  refine congrArg Except.ok ((decodeWrite_control _ _ (by omega)).trans ?_)
  simp only [decodeControl, decodeMbc3, extract_eq_iff, BitVec.toNat_ofNat]
  repeat' first
    | exact if_pos (by omega)
    | rw [if_neg (by omega)]

theorem wrMbc3Rtclatch (addr : Word) (v : Byte) : Statement (.wrMbc3Rtclatch addr v) := by
  intro ctx hw hc
  obtain ⟨variant, mode⟩ := ctx
  simp only [Instr.inContext, decide_eq_true_eq] at hc
  subst hc
  simp only [Instr.wf, inWindow, Bool.and_eq_true, decide_eq_true_eq] at hw
  refine congrArg Except.ok ((decodeWrite_control _ _ (by omega)).trans ?_)
  simp only [decodeControl, decodeMbc3, extract_eq_iff, BitVec.toNat_ofNat]
  repeat' first
    | exact if_pos (by omega)
    | rw [if_neg (by omega)]

theorem wrMbc5Ramen (addr : Word) (v : Byte) : Statement (.wrMbc5Ramen addr v) := by
  intro ctx hw hc
  obtain ⟨variant, mode⟩ := ctx
  simp only [Instr.inContext, decide_eq_true_eq] at hc
  subst hc
  simp only [Instr.wf, inWindow, Bool.and_eq_true, decide_eq_true_eq] at hw
  refine congrArg Except.ok ((decodeWrite_control _ _ (by omega)).trans ?_)
  simp only [decodeControl, decodeMbc5, extract_eq_iff, BitVec.toNat_ofNat, getLsbD_eq_bit, decide_eq_true_eq]
  exact if_pos (by omega)

theorem wrMbc5Romblo (addr : Word) (v : Byte) : Statement (.wrMbc5Romblo addr v) := by
  intro ctx hw hc
  obtain ⟨variant, mode⟩ := ctx
  simp only [Instr.inContext, decide_eq_true_eq] at hc
  subst hc
  simp only [Instr.wf, inWindow, Bool.and_eq_true, decide_eq_true_eq] at hw
  refine congrArg Except.ok ((decodeWrite_control _ _ (by omega)).trans ?_)
  simp only [decodeControl, decodeMbc5, extract_eq_iff, BitVec.toNat_ofNat, getLsbD_eq_bit, decide_eq_true_eq]
  repeat' first
    | exact if_pos (by omega)
    | rw [if_pos (by omega)]
    | rw [if_neg (by omega)]

theorem wrMbc5Rombhi (addr : Word) (v : Byte) : Statement (.wrMbc5Rombhi addr v) := by
  intro ctx hw hc
  obtain ⟨variant, mode⟩ := ctx
  simp only [Instr.inContext, decide_eq_true_eq] at hc
  subst hc
  simp only [Instr.wf, inWindow, Bool.and_eq_true, decide_eq_true_eq] at hw
  refine congrArg Except.ok ((decodeWrite_control _ _ (by omega)).trans ?_)
  simp only [decodeControl, decodeMbc5, extract_eq_iff, BitVec.toNat_ofNat, getLsbD_eq_bit, decide_eq_true_eq]
  repeat' first
    | exact if_pos (by omega)
    | rw [if_pos (by omega)]
    | rw [if_neg (by omega)]

theorem wrMbc5Ramb (addr : Word) (v : Byte) : Statement (.wrMbc5Ramb addr v) := by
  intro ctx hw hc
  obtain ⟨variant, mode⟩ := ctx
  simp only [Instr.inContext, decide_eq_true_eq] at hc
  subst hc
  simp only [Instr.wf, inWindow, Bool.and_eq_true, decide_eq_true_eq] at hw
  refine congrArg Except.ok ((decodeWrite_control _ _ (by omega)).trans ?_)
  simp only [decodeControl, decodeMbc5, extract_eq_iff, BitVec.toNat_ofNat, getLsbD_eq_bit, decide_eq_true_eq]
  repeat' first
    | exact if_pos (by omega)
    | rw [if_neg (by omega)]

theorem wrMbc5Nop6 (addr : Word) (v : Byte) : Statement (.wrMbc5Nop6 addr v) := by
  intro ctx hw hc
  obtain ⟨variant, mode⟩ := ctx
  simp only [Instr.inContext, decide_eq_true_eq] at hc
  subst hc
  simp only [Instr.wf, inWindow, Bool.and_eq_true, decide_eq_true_eq] at hw
  refine congrArg Except.ok ((decodeWrite_control _ _ (by omega)).trans ?_)
  simp only [decodeControl, decodeMbc5, extract_eq_iff, BitVec.toNat_ofNat, getLsbD_eq_bit, decide_eq_true_eq]
  repeat' first
    | exact if_pos (by omega)
    | rw [if_neg (by omega)]

theorem wrGap8 (addr : Word) (v : Byte) : Statement (.wrGap8 addr v) := by
  intro ctx hw _
  simp only [Instr.wf, inWindow, Bool.and_eq_true, decide_eq_true_eq] at hw
  refine congrArg Except.ok ?_
  have h15 : ¬ addr.toNat >>> 15 % 2 = 1 → False := by omega
  simp only [decodeWrite, extract_eq_iff, BitVec.toNat_ofNat, BitVec.toNat_eq (y := 0xFFFF#16), getLsbD_eq_bit, decide_eq_false_iff_not]
  repeat' first
    | exact if_pos (by omega)
    | rw [if_neg (by omega)]

theorem wrXram (addr : Word) (v : Byte) : Statement (.wrXram addr v) := by
  intro ctx hw _
  simp only [Instr.wf, inWindow, Bool.and_eq_true, decide_eq_true_eq] at hw
  refine congrArg Except.ok ?_
  have h15 : ¬ addr.toNat >>> 15 % 2 = 1 → False := by omega
  simp only [decodeWrite, extract_eq_iff, BitVec.toNat_ofNat, BitVec.toNat_eq (y := 0xFFFF#16), getLsbD_eq_bit, decide_eq_false_iff_not]
  repeat' first
    | exact if_pos (by omega)
    | rw [if_neg (by omega)]

theorem wrWram (addr : Word) (v : Byte) : Statement (.wrWram addr v) := by
  intro ctx hw _
  simp only [Instr.wf, inWindow, Bool.and_eq_true, decide_eq_true_eq] at hw
  refine congrArg Except.ok ?_
  have h15 : ¬ addr.toNat >>> 15 % 2 = 1 → False := by omega
  simp only [decodeWrite, extract_eq_iff, BitVec.toNat_ofNat, BitVec.toNat_eq (y := 0xFFFF#16), getLsbD_eq_bit, decide_eq_false_iff_not]
  repeat' first
    | exact if_pos (by omega)
    | rw [if_neg (by omega)]

theorem wrIe (v : Byte) : Statement (.wrIe v) := by
  intro ctx _ _; rfl

theorem wrHram (addr : Word) (v : Byte) : Statement (.wrHram addr v) := by
  intro ctx hw _
  simp only [Instr.wf, inWindow, Bool.and_eq_true, decide_eq_true_eq] at hw
  refine congrArg Except.ok ?_
  have h15 : ¬ addr.toNat >>> 15 % 2 = 1 → False := by omega
  simp only [decodeWrite, extract_eq_iff, BitVec.toNat_ofNat, BitVec.toNat_eq (y := 0xFFFF#16), getLsbD_eq_bit, decide_eq_false_iff_not]
  repeat' first
    | exact if_pos (by omega)
    | rw [if_neg (by omega)]

theorem wrIo (addr : Word) (v : Byte) : Statement (.wrIo addr v) := by
  intro ctx hw _
  simp only [Instr.wf, inWindow, Bool.and_eq_true, decide_eq_true_eq] at hw
  refine congrArg Except.ok ?_
  have h15 : ¬ addr.toNat >>> 15 % 2 = 1 → False := by omega
  simp only [decodeWrite, extract_eq_iff, BitVec.toNat_ofNat, BitVec.toNat_eq (y := 0xFFFF#16), getLsbD_eq_bit, decide_eq_false_iff_not]
  repeat' first
    | exact if_pos (by omega)
    | rw [if_neg (by omega)]

theorem wrGapfe (addr : Word) (v : Byte) : Statement (.wrGapfe addr v) := by
  intro ctx hw _
  simp only [Instr.wf, inWindow, Bool.and_eq_true, decide_eq_true_eq] at hw
  refine congrArg Except.ok ?_
  have h15 : ¬ addr.toNat >>> 15 % 2 = 1 → False := by omega
  simp only [decodeWrite, extract_eq_iff, BitVec.toNat_ofNat, BitVec.toNat_eq (y := 0xFFFF#16), getLsbD_eq_bit, decide_eq_false_iff_not]
  repeat' first
    | exact if_pos (by omega)
    | rw [if_neg (by omega)]

theorem wrEcho (addr : Word) (v : Byte) : Statement (.wrEcho addr v) := by
  intro ctx hw _
  simp only [Instr.wf, inWindow, Bool.and_eq_true, decide_eq_true_eq] at hw
  refine congrArg Except.ok ?_
  have h15 : ¬ addr.toNat >>> 15 % 2 = 1 → False := by omega
  simp only [decodeWrite, extract_eq_iff, BitVec.toNat_ofNat, BitVec.toNat_eq (y := 0xFFFF#16), getLsbD_eq_bit, decide_eq_false_iff_not]
  repeat' first
    | exact if_pos (by omega)
    | rw [if_neg (by omega)]

end Sys2Proof.Laws.PortRoundTrip
end

