-- ==== Sys2Proof/Laws/Step.lean ====
section
/-! SUPPORT. What one step can do. -/

namespace Sys2Proof.Machine

/-- Everything a step that ends in a next state can have done. -/
theorem step_next_cases {s t : State} (h : step s = .next t) :
    (s.pending = [] ∧ t = s) ∨
    ∃ w rest i, s.pending = w :: rest ∧ decode s.context w = .ok i ∧
      exec i { s with pending := rest } = .next t := by
  unfold step State.takeWord at h
  cases hp : s.pending with
  | nil =>
    simp only [hp] at h
    injection h with h
    exact .inl ⟨rfl, h.symm⟩
  | cons w rest =>
    simp only [hp] at h
    have hc : ({ s with pending := rest } : State).context = s.context := rfl
    rw [hc] at h
    cases hd : decode s.context w with
    | error e => simp [hd] at h
    | ok i => exact .inr ⟨w, rest, i, rfl, hd, by simpa [hd] using h⟩

/-- A presented word that decodes runs its operation on the state before it was presented. -/
theorem step_present (s : State) (t : TWord) {i : Instr} (h : decode s.context t = .ok i) :
    step (s.present t) = exec i s := by
  have hc : (s.present t).context = s.context := rfl
  show (match decode s.context t with | .error e => _ | .ok i => exec i s) = _
  rw [h]

/-- A presented word that spells no operation is refused by name (R113). -/
theorem step_present_error (s : State) (t : TWord) {e : DecodeError} (h : decode s.context t = .error e) :
    step (s.present t) = .refused (.reservedWord e) := by
  have hc : (s.present t).context = s.context := rfl
  show (match decode s.context t with | .error e => _ | .ok i => exec i s) = _
  rw [h]

end Sys2Proof.Machine
end

