-- ==== Sys2Proof/Tests/Slice0.lean ====
section
/-! SUPPORT. The model's own tests. Expected values come from spec/95_test_vectors.md (the vector's id stands beside a
test) or are worked out by hand from the rules; none is the model's own answer. Then one witness theorem for every
statement that has hypotheses: a concrete state and operands that meet them, at the edges of their ranges. -/

namespace Sys2Proof.Tests
open Sys2Proof Sys2Proof.Machine

/-! ### Small states and observations -/

/-- A configuration with the bytes of the spec's test ROM at a few indices: the bank number at each bank's first byte. -/
def demoConfig (variant : Variant) : Config :=
  { Config.standard with
    variant := variant, romLen := 0x800000,
    rom := [(0x0150, 0x50#8), (0x3FFF, 0xFF#8), (0x4000, 0x01#8), (0x14000, 0x05#8), (0x104000, 0x41#8),
      (0x7FC000, 0xFF#8), (0x7FC001, 0x01#8)] }

/-- Right after reset. -/
def demo (variant : Variant) : State := State.resetOf (demoConfig variant)

/-- With the bank controller's registers set. -/
def demoMbc (variant : Variant) (m : BankController) : State :=
  { demo variant with bus := { (demo variant).bus with mbc := m } }

/-- With external RAM of one cell, enabled. -/
def demoXram (variant : Variant) : State :=
  { demo variant with bus := { (demo variant).bus with
      mbc := ⟨1#9, 3#4, true, .rom⟩, xram := [(0x6010, 0x5C#8)], wram := [(0x0012, 0x5A#8)] } }

/-- With F set. -/
def demoF (f : Byte) : State := { demo .mbc1 with rf := { (demo .mbc1).rf with f := f } }

/-- With external RAM enabled and the PC set. -/
def demoPc (variant : Variant) (pc : Word) : State :=
  { demoMbc variant ⟨1#9, 0#4, true, .rom⟩ with rf := { (demo variant).rf with pc := pc } }

/-- What one transaction returns. -/
def reply (t : TWord) (s : State) : Option Reply :=
  match step (s.present t) with
  | .next s' => some s'.reply
  | .fault _ => none
  | .refused _ => none

/-- What one transaction leaves in a part of the state. -/
def after {α : Type} (f : State → α) (t : TWord) (s : State) : Option α :=
  match step (s.present t) with
  | .next s' => some (f s')
  | .fault _ => none
  | .refused _ => none

def ctx1 : Context := ⟨.mbc1, .rom⟩
def ctx1r : Context := ⟨.mbc1, .ram⟩
def ctx2 : Context := ⟨.mbc2, .rom⟩
def ctx3 : Context := ⟨.mbc3, .rom⟩
def ctx5 : Context := ⟨.mbc5, .rom⟩

/-! ### Decoding, every constructor, from words written out by hand (R102 to R109) -/

/-- V-ENC-5 to V-ENC-11. -/
theorem test_decode_register_access :
    decode ctx1 0x80700000#32 = .ok (.rd8 .l) ∧
    decode ctx1 0x815000FF#32 = .ok (.wr8 .f 0xFF#8) ∧
    decode ctx1 0x82500000#32 = .ok (.rd16 .pc) ∧
    decode ctx1 0x8340FFFE#32 = .ok (.wr16 .sp 0xFFFE#16) ∧
    decode ctx1 0x84000000#32 = .ok .bump ∧
    decode ctx1 0x85000000#32 = .ok .inchl ∧
    decode ctx1 0x86000000#32 = .ok .dechl := by
  decide

/-- V-ENC-12 to V-ENC-18. -/
theorem test_decode_flags_and_latches :
    decode ctx1 0x88000090#32 = .ok (.ftest 0x90#8) ∧
    decode ctx1 0x89000040#32 = .ok (.fset 0x40#8) ∧
    decode ctx1 0x8A0000FF#32 = .ok (.fclr 0xFF#8) ∧
    decode ctx1 0x8B100010#32 = .ok (.fput 0x10#8 true) ∧
    decode ctx1 0x8B000010#32 = .ok (.fput 0x10#8 false) ∧
    decode ctx1 0x8C200000#32 = .ok (.rdctl .ime) ∧
    decode ctx1 0x8D100001#32 = .ok (.wrctl .stopped true) := by
  decide

/-- R105 to R107: every selector. -/
theorem test_decode_selectors :
    decode ctx1 0x80000000#32 = .ok (.rd8 .a) ∧ decode ctx1 0x80100000#32 = .ok (.rd8 .b) ∧
    decode ctx1 0x80200000#32 = .ok (.rd8 .c) ∧ decode ctx1 0x80300000#32 = .ok (.rd8 .d) ∧
    decode ctx1 0x80400000#32 = .ok (.rd8 .e) ∧ decode ctx1 0x80500000#32 = .ok (.rd8 .f) ∧
    decode ctx1 0x80600000#32 = .ok (.rd8 .h) ∧ decode ctx1 0x82000000#32 = .ok (.rd16 .af) ∧
    decode ctx1 0x82100000#32 = .ok (.rd16 .bc) ∧ decode ctx1 0x82200000#32 = .ok (.rd16 .de) ∧
    decode ctx1 0x82300000#32 = .ok (.rd16 .hl) ∧ decode ctx1 0x82400000#32 = .ok (.rd16 .sp) ∧
    decode ctx1 0x8C000000#32 = .ok (.rdctl .halted) ∧ decode ctx1 0x8C100000#32 = .ok (.rdctl .stopped) := by
  decide

/-- V-BUS-1 to V-BUS-8, at the edges R170 names. -/
theorem test_decode_reads :
    decode ctx1 0x003FFF00#32 = .ok (.rdRom0 0x3FFF#16) ∧
    decode ctx1 0x00400000#32 = .ok (.rdRomx 0x4000#16) ∧
    decode ctx1 0x00800000#32 = .ok (.rdGap8 0x8000#16) ∧
    decode ctx1 0x00BFFF00#32 = .ok (.rdXram 0xBFFF#16) ∧
    decode ctx1 0x00DFFF00#32 = .ok (.rdWram 0xDFFF#16) ∧
    decode ctx1 0x00FDFF00#32 = .ok (.rdEcho 0xFDFF#16) ∧
    decode ctx1 0x00FE0000#32 = .ok (.rdGapfe 0xFE00#16) ∧
    decode ctx1 0x00FF7F00#32 = .ok (.rdIo 0xFF7F#16) ∧
    decode ctx1 0x00FFFE00#32 = .ok (.rdHram 0xFFFE#16) ∧
    decode ctx1 0x00FFFF00#32 = .ok .rdIe := by
  decide

/-- The examples of R182 to R187, V-BUS-2, V-BUS-6. -/
theorem test_decode_writes :
    decode ctx1 0x019FFF34#32 = .ok (.wrGap8 0x9FFF#16 0x34#8) ∧
    decode ctx1 0x01A00077#32 = .ok (.wrXram 0xA000#16 0x77#8) ∧
    decode ctx1 0x01C0125A#32 = .ok (.wrWram 0xC012#16 0x5A#8) ∧
    decode ctx1 0x01F3FF99#32 = .ok (.wrEcho 0xF3FF#16 0x99#8) ∧
    decode ctx1 0x01FE0017#32 = .ok (.wrGapfe 0xFE00#16 0x17#8) ∧
    decode ctx1 0x01FF4091#32 = .ok (.wrIo 0xFF40#16 0x91#8) ∧
    decode ctx1 0x01FF8042#32 = .ok (.wrHram 0xFF80#16 0x42#8) ∧
    decode ctx1 0x01FFFF05#32 = .ok (.wrIe 0x05#8) := by
  decide

/-- The examples of R200 to R204; section 2.1 for 0x01400003. -/
theorem test_decode_mbc1 :
    decode ctx1 0x011FFFFA#32 = .ok (.wrMbc1Ramen 0x1FFF#16 0xFA#8) ∧
    decode ctx1 0x01200005#32 = .ok (.wrMbc1Romb 0x2000#16 0x05#8) ∧
    decode ctx1 0x01400003#32 = .ok (.wrMbc1Rombhi 0x4000#16 0x03#8) ∧
    decode ctx1r 0x01400003#32 = .ok (.wrMbc1Ramb 0x4000#16 0x03#8) ∧
    decode ctx1 0x01600001#32 = .ok (.wrMbc1Mode 0x6000#16 0x01#8) := by
  decide

/-- V-MBC2-1 to V-MBC2-6. -/
theorem test_decode_mbc2 :
    decode ctx2 0x011EFF0A#32 = .ok (.wrMbc2Ramtog 0x1EFF#16 0x0A#8) ∧
    decode ctx2 0x0101000A#32 = .ok (.wrMbc2Nop0 0x0100#16 0x0A#8) ∧
    decode ctx2 0x01210007#32 = .ok (.wrMbc2Romb 0x2100#16 0x07#8) ∧
    decode ctx2 0x01200007#32 = .ok (.wrMbc2Nop2 0x2000#16 0x07#8) ∧
    decode ctx2 0x01400003#32 = .ok (.wrMbc2Nop4 0x4000#16 0x03#8) ∧
    decode ctx2 0x017FFFFF#32 = .ok (.wrMbc2Nop4 0x7FFF#16 0xFF#8) := by
  decide

/-- The examples of R200, R221 to R223. -/
theorem test_decode_mbc3 :
    decode ctx3 0x0100000A#32 = .ok (.wrMbc3Ramen 0x0000#16 0x0A#8) ∧
    decode ctx3 0x0120007F#32 = .ok (.wrMbc3Romb 0x2000#16 0x7F#8) ∧
    decode ctx3 0x01400002#32 = .ok (.wrMbc3Ramb 0x4000#16 0x02#8) ∧
    decode ctx3 0x01600001#32 = .ok (.wrMbc3Rtclatch 0x6000#16 0x01#8) := by
  decide

/-- The examples of R200, R231 to R234. -/
theorem test_decode_mbc5 :
    decode ctx5 0x0100000A#32 = .ok (.wrMbc5Ramen 0x0000#16 0x0A#8) ∧
    decode ctx5 0x012000FF#32 = .ok (.wrMbc5Romblo 0x2000#16 0xFF#8) ∧
    decode ctx5 0x01300001#32 = .ok (.wrMbc5Rombhi 0x3000#16 0x01#8) ∧
    decode ctx5 0x0140001F#32 = .ok (.wrMbc5Ramb 0x4000#16 0x1F#8) ∧
    decode ctx5 0x01600001#32 = .ok (.wrMbc5Nop6 0x6000#16 0x01#8) := by
  decide

/-- V-ENC-19 to V-ENC-34. -/
theorem test_reserved_words :
    decode ctx1 0x02000000#32 = .error .reservedBits ∧
    decode ctx1 0x00400001#32 = .error .readData ∧
    decode ctx1 0x87000000#32 = .error .unassignedOp ∧
    decode ctx1 0x8E000000#32 = .error .unassignedOp ∧
    decode ctx1 0xBF000000#32 = .error .unassignedOp ∧
    decode ctx1 0xC0000000#32 = .error .reservedBits ∧
    decode ctx1 0x80010000#32 = .error .reservedBits ∧
    decode ctx1 0x80800000#32 = .error .badSelector ∧
    decode ctx1 0x82600000#32 = .error .badSelector ∧
    decode ctx1 0x8C300000#32 = .error .badSelector ∧
    decode ctx1 0x81000100#32 = .error .unusedField ∧
    decode ctx1 0x84000001#32 = .error .unusedField ∧
    decode ctx1 0x85100000#32 = .error .unusedField ∧
    decode ctx1 0x8B200080#32 = .error .unusedField ∧
    decode ctx1 0x8D000002#32 = .error .unusedField ∧
    decode ctx1 0x80000001#32 = .error .unusedField := by
  decide

/-- R113: such a word is refused by name, and nothing else is. -/
theorem test_step_refuses :
    (match step ((demo .mbc1).present 0x87000000#32) with
      | .refused r => decide (r = .reservedWord .unassignedOp)
      | .next _ => false
      | .fault _ => false) = true := by
  decide

/-- R120: rows of the table, one word under every context (section 2.1). -/
theorem test_opcode_table :
    opcodeTable.length = 50 ∧ tableRow ctx1 0x01400003#32 = some "WR.MBC1.ROMBHI" ∧
    tableRow ctx1r 0x01400003#32 = some "WR.MBC1.RAMB" ∧ tableRow ctx2 0x01400003#32 = some "WR.MBC2.NOP4" ∧
    tableRow ctx3 0x01400003#32 = some "WR.MBC3.RAMB" ∧ tableRow ctx5 0x01400003#32 = some "WR.MBC5.RAMB" ∧
    tableRow ctx1 0x00FDFF00#32 = some "RD.ECHO" ∧ tableRow ctx1 0x80800000#32 = none := by
  decide

/-- The words R102 and R103 give for a few operations. -/
theorem test_encode :
    encode (.wr8 .b 0x12#8) = 0x81100012#32 ∧ encode (.wr16 .hl 0xC0FF#16) = 0x8330C0FF#32 ∧
    encode (.wrWram 0xC012#16 0x5A#8) = 0x01C0125A#32 ∧ encode (.rdHram 0xFFFE#16) = 0x00FFFE00#32 := by
  decide

/-- The host's two definitions agree with the decoder of the reset context. -/
theorem test_table_word :
    decodeTableWord 32 0x81100012 = some (.wr8 .b 0x12#8) ∧ decodeTableWord 32 0x87000000 = none ∧
    State.reset.context = Context.atReset := by
  decide

/-! ### WellFormed: an ill-formed term for each check -/

theorem test_wf_reads :
    (Instr.rdRom0 0x4000#16).wf = false ∧
    (Instr.rdRomx 0x3FFF#16).wf = false ∧
    (Instr.rdRomx 0x8000#16).wf = false ∧
    (Instr.rdGap8 0x7FFF#16).wf = false ∧
    (Instr.rdGap8 0xA000#16).wf = false ∧
    (Instr.rdXram 0x9FFF#16).wf = false ∧
    (Instr.rdXram 0xC000#16).wf = false ∧
    (Instr.rdWram 0xBFFF#16).wf = false ∧
    (Instr.rdWram 0xE000#16).wf = false ∧
    (Instr.rdHram 0xFF7F#16).wf = false ∧
    (Instr.rdHram 0xFFFF#16).wf = false ∧
    (Instr.rdIo 0xFEFF#16).wf = false ∧
    (Instr.rdIo 0xFF80#16).wf = false ∧
    (Instr.rdGapfe 0xFDFF#16).wf = false ∧
    (Instr.rdGapfe 0xFF00#16).wf = false ∧
    (Instr.rdEcho 0xDFFF#16).wf = false ∧
    (Instr.rdEcho 0xFE00#16).wf = false := by
  decide

theorem test_wf_control_mbc1_mbc2 :
    (Instr.wrMbc1Ramen 0x2000#16 0#8).wf = false ∧
    (Instr.wrMbc1Romb 0x1FFF#16 0#8).wf = false ∧
    (Instr.wrMbc1Romb 0x4000#16 0#8).wf = false ∧
    (Instr.wrMbc1Rombhi 0x3FFF#16 0#8).wf = false ∧
    (Instr.wrMbc1Rombhi 0x6000#16 0#8).wf = false ∧
    (Instr.wrMbc1Ramb 0x3FFF#16 0#8).wf = false ∧
    (Instr.wrMbc1Ramb 0x6000#16 0#8).wf = false ∧
    (Instr.wrMbc1Mode 0x5FFF#16 0#8).wf = false ∧
    (Instr.wrMbc1Mode 0x8000#16 0#8).wf = false ∧
    (Instr.wrMbc2Ramtog 0x0100#16 0#8).wf = false ∧
    (Instr.wrMbc2Ramtog 0x2000#16 0#8).wf = false ∧
    (Instr.wrMbc2Nop0 0x0000#16 0#8).wf = false ∧
    (Instr.wrMbc2Nop0 0x2100#16 0#8).wf = false ∧
    (Instr.wrMbc2Romb 0x2000#16 0#8).wf = false ∧
    (Instr.wrMbc2Romb 0x4100#16 0#8).wf = false ∧
    (Instr.wrMbc2Nop2 0x2100#16 0#8).wf = false ∧
    (Instr.wrMbc2Nop2 0x4000#16 0#8).wf = false ∧
    (Instr.wrMbc2Nop4 0x3FFF#16 0#8).wf = false ∧
    (Instr.wrMbc2Nop4 0x8000#16 0#8).wf = false ∧
    (Instr.wrMbc2Romb 0x1F00#16 0#8).wf = false ∧
    (Instr.wrMbc2Nop2 0x1E00#16 0#8).wf = false := by
  decide

theorem test_wf_control_mbc3_mbc5 :
    (Instr.wrMbc3Ramen 0x2000#16 0#8).wf = false ∧
    (Instr.wrMbc3Romb 0x1FFF#16 0#8).wf = false ∧
    (Instr.wrMbc3Romb 0x4000#16 0#8).wf = false ∧
    (Instr.wrMbc3Ramb 0x3FFF#16 0#8).wf = false ∧
    (Instr.wrMbc3Ramb 0x6000#16 0#8).wf = false ∧
    (Instr.wrMbc3Rtclatch 0x5FFF#16 0#8).wf = false ∧
    (Instr.wrMbc3Rtclatch 0x8000#16 0#8).wf = false ∧
    (Instr.wrMbc5Ramen 0x2000#16 0#8).wf = false ∧
    (Instr.wrMbc5Romblo 0x1FFF#16 0#8).wf = false ∧
    (Instr.wrMbc5Romblo 0x3000#16 0#8).wf = false ∧
    (Instr.wrMbc5Rombhi 0x2FFF#16 0#8).wf = false ∧
    (Instr.wrMbc5Rombhi 0x4000#16 0#8).wf = false ∧
    (Instr.wrMbc5Ramb 0x3FFF#16 0#8).wf = false ∧
    (Instr.wrMbc5Ramb 0x6000#16 0#8).wf = false ∧
    (Instr.wrMbc5Nop6 0x5FFF#16 0#8).wf = false ∧
    (Instr.wrMbc5Nop6 0x8000#16 0#8).wf = false := by
  decide

theorem test_wf_writes :
    (Instr.wrGap8 0x7FFF#16 0#8).wf = false ∧
    (Instr.wrGap8 0xA000#16 0#8).wf = false ∧
    (Instr.wrXram 0x9FFF#16 0#8).wf = false ∧
    (Instr.wrXram 0xC000#16 0#8).wf = false ∧
    (Instr.wrWram 0xBFFF#16 0#8).wf = false ∧
    (Instr.wrWram 0xE000#16 0#8).wf = false ∧
    (Instr.wrHram 0xFF7F#16 0#8).wf = false ∧
    (Instr.wrHram 0xFFFF#16 0#8).wf = false ∧
    (Instr.wrIo 0xFEFF#16 0#8).wf = false ∧
    (Instr.wrIo 0xFF80#16 0#8).wf = false ∧
    (Instr.wrGapfe 0xFDFF#16 0#8).wf = false ∧
    (Instr.wrGapfe 0xFF00#16 0#8).wf = false ∧
    (Instr.wrEcho 0xDFFF#16 0#8).wf = false ∧
    (Instr.wrEcho 0xFE00#16 0#8).wf = false := by
  decide

theorem test_in_context :
    Instr.inContext ctx2 (.wrMbc1Ramen 0x0000#16 0#8) = false ∧
    Instr.inContext ctx3 (.wrMbc1Romb 0x2000#16 0#8) = false ∧
    Instr.inContext ctx1r (.wrMbc1Rombhi 0x4000#16 0#8) = false ∧
    Instr.inContext ctx1 (.wrMbc1Ramb 0x4000#16 0#8) = false ∧
    Instr.inContext ctx5 (.wrMbc1Mode 0x6000#16 0#8) = false ∧
    Instr.inContext ctx1 (.wrMbc2Ramtog 0x0000#16 0#8) = false ∧
    Instr.inContext ctx1 (.wrMbc2Nop0 0x0100#16 0#8) = false ∧
    Instr.inContext ctx1 (.wrMbc2Romb 0x2100#16 0#8) = false ∧
    Instr.inContext ctx1 (.wrMbc2Nop2 0x2000#16 0#8) = false ∧
    Instr.inContext ctx1 (.wrMbc2Nop4 0x4000#16 0#8) = false ∧
    Instr.inContext ctx1 (.wrMbc3Ramen 0x0000#16 0#8) = false ∧
    Instr.inContext ctx1 (.wrMbc3Romb 0x2000#16 0#8) = false ∧
    Instr.inContext ctx1 (.wrMbc3Ramb 0x4000#16 0#8) = false ∧
    Instr.inContext ctx1 (.wrMbc3Rtclatch 0x6000#16 0#8) = false ∧
    Instr.inContext ctx1 (.wrMbc5Ramen 0x0000#16 0#8) = false ∧
    Instr.inContext ctx1 (.wrMbc5Romblo 0x2000#16 0#8) = false ∧
    Instr.inContext ctx1 (.wrMbc5Rombhi 0x3000#16 0#8) = false ∧
    Instr.inContext ctx1 (.wrMbc5Ramb 0x4000#16 0#8) = false ∧
    Instr.inContext ctx1 (.wrMbc5Nop6 0x6000#16 0#8) = false := by
  decide

theorem test_wf_accepts :
    (Instr.rdRom0 0x3FFF#16).wf = true ∧
    (Instr.rdEcho 0xFDFF#16).wf = true ∧
    (Instr.wrMbc2Romb 0x3FFF#16 0#8).wf = true ∧
    (Instr.wrMbc5Rombhi 0x3000#16 0#8).wf = true ∧
    Instr.inContext ctx1r (.wrMbc1Ramb 0x4000#16 0#8) = true := by
  decide

/-- A configuration and a memory that the checks refuse. -/
theorem test_config_wf :
    Config.standard.wf = true ∧ (demoConfig .mbc1).wf = true ∧
    ({ Config.standard with rom := [(0, 0x12#8)] } : Config).wf = false ∧
    Memory.wf [(5, 0x01#8), (5, 0x02#8)] = false ∧ Memory.wf [(6, 0x01#8), (5, 0x02#8)] = false ∧
    Memory.wf [(5, 0x00#8)] = false := by
  decide

/-! ### One step of each operation -/

/-- V-REG-1. -/
theorem test_rd8 :
    reply 0x80400000#32 (demo .mbc1) = some (.reg 0x00D8#16) := by
  decide

/-- V-REG-2, V-REG-3. -/
theorem test_wr8 :
    after (·.rf.read16 .bc) 0x81100012#32 (demo .mbc1) = some 0x1213#16 ∧
    after (·.rf.f) 0x815000FF#32 (demo .mbc1) = some 0xF0#8 := by
  decide

/-- V-SRC-8. -/
theorem test_rd16 :
    reply 0x82300000#32 (demo .mbc1) = some (.reg 0x014D#16) ∧
    reply 0x82500000#32 (demo .mbc1) = some (.reg 0x0100#16) := by
  decide

/-- V-REG-5, V-REG-8. -/
theorem test_wr16 :
    after (·.rf.read16 .af) 0x830012FF#32 (demo .mbc1) = some 0x12F0#16 ∧
    after (·.rf.sp) 0x8340D000#32 (demo .mbc1) = some 0xD000#16 := by
  decide

/-- V-SRC-10. -/
theorem test_bump :
    reply 0x84000000#32 { demo .mbc1 with rf := { (demo .mbc1).rf with pc := 0xFFFF#16 } } = some (.reg 0xFFFF#16) ∧
    after (·.rf.pc) 0x84000000#32 { demo .mbc1 with rf := { (demo .mbc1).rf with pc := 0xFFFF#16 } } = some 0x0000#16 := by
  decide

/-- V-SRC-9, V-REG-12. -/
theorem test_inchl :
    after (·.rf.read16 .hl) 0x85000000#32 { demo .mbc1 with rf := { (demo .mbc1).rf with h := 0x01#8, l := 0xFF#8 } } =
      some 0x0200#16 ∧
    after (·.rf.read16 .hl) 0x85000000#32 { demo .mbc1 with rf := { (demo .mbc1).rf with h := 0xFF#8, l := 0xFF#8 } } =
      some 0x0000#16 := by
  decide

/-- V-SRC-9, V-REG-13. -/
theorem test_dechl :
    after (·.rf.read16 .hl) 0x86000000#32 { demo .mbc1 with rf := { (demo .mbc1).rf with h := 0x01#8, l := 0x00#8 } } =
      some 0x00FF#16 ∧
    after (·.rf.read16 .hl) 0x86000000#32 { demo .mbc1 with rf := { (demo .mbc1).rf with h := 0x00#8, l := 0x00#8 } } =
      some 0xFFFF#16 := by
  decide

/-- V-FLAG-1. -/
theorem test_ftest :
    reply 0x88000050#32 (demoF 0x90#8) = some (.reg 1#16) ∧
    reply 0x88000040#32 (demoF 0x90#8) = some (.reg 0#16) := by
  decide

/-- V-FLAG-3, V-FLAG-4. -/
theorem test_fset :
    after (·.rf.f) 0x890000FF#32 (demoF 0x00#8) = some 0xF0#8 ∧
    after (·.rf.f) 0x8900000F#32 (demoF 0x50#8) = some 0x50#8 := by
  decide

/-- V-FLAG-5, V-FLAG-7. -/
theorem test_fclr :
    after (·.rf.f) 0x8A000080#32 (demoF 0xF0#8) = some 0x70#8 ∧
    after (·.rf.f) 0x8A000050#32 (demoF 0xA0#8) = some 0xA0#8 := by
  decide

/-- V-FLAG-8. -/
theorem test_fput :
    after (·.rf.f) 0x8B000020#32 (demoF 0x70#8) = some 0x50#8 ∧
    after (·.rf.f) 0x8B100080#32 (demoF 0x50#8) = some 0xD0#8 := by
  decide

/-- V-CTL-1. -/
theorem test_rdctl :
    reply 0x8C200000#32 (demo .mbc1) = some (.reg 0#16) := by
  decide

/-- V-CTL-2. -/
theorem test_wrctl :
    after (fun s => (s.rf.halted, s.rf.stopped, s.rf.ime)) 0x8D200001#32 (demo .mbc1) = some (false, false, true) := by
  decide

/-- V-SRC-1. -/
theorem test_rd_rom0 :
    reply 0x003FFF00#32 (demoMbc .mbc1 ⟨3#9, 0#4, true, .ram⟩) = some (.bus 0xFF#8) ∧
    reply 0x00015000#32 (demo .mbc1) = some (.bus 0x50#8) := by
  decide

/-- V-SRC-4, V-SRC-5: MBC5 bank 0x1FF. -/
theorem test_rd_romx :
    reply 0x00400000#32 (demoMbc .mbc1 ⟨5#9, 0#4, false, .rom⟩) = some (.bus 0x05#8) ∧
    reply 0x00400100#32 (demoMbc .mbc5 ⟨0x1FF#9, 0#4, false, .rom⟩) = some (.bus 0x01#8) := by
  decide

/-- V-BUS-11: beyond the image the open bus, without wrapping. -/
theorem test_rd_beyond_rom :
    reply 0x00400000#32 (State.resetOf { demoConfig .mbc1 with romLen := 0x4000, rom := [(0, 0x77#8)] }) = some (.bus 0xFF#8) := by
  decide

/-- V-BUS-17 in one read, and V-BUS-16: disabled. -/
theorem test_rd_xram :
    reply 0x00A01000#32 (demoXram .mbc1) = some (.bus 0x5C#8) ∧
    reply 0x00A01000#32 (demo .mbc1) = some (.bus 0xFF#8) := by
  decide

/-- V-SRC-6. -/
theorem test_rd_wram_echo :
    reply 0x00C01200#32 (demoXram .mbc1) = some (.bus 0x5A#8) ∧
    reply 0x00E01200#32 (demoXram .mbc1) = some (.bus 0x5A#8) := by
  decide

/-- R176, R177: 0xFFFE is the last cell, 0xFFFF is `ie`. -/
theorem test_rd_hram_ie :
    reply 0x00FFFE00#32 { demo .mbc1 with bus := { (demo .mbc1).bus with hram := [(126, 0x43#8)], ie := 0x1F#8 } } =
      some (.bus 0x43#8) ∧
    reply 0x00FFFF00#32 { demo .mbc1 with bus := { (demo .mbc1).bus with hram := [(126, 0x43#8)], ie := 0x1F#8 } } =
      some (.bus 0x1F#8) := by
  decide

/-- V-BUS-1, V-BUS-6, V-BUS-7. -/
theorem test_rd_fallback :
    reply 0x00800000#32 (demoXram .mbc1) = some (.bus 0xFF#8) ∧
    reply 0x00FE0000#32 (demoXram .mbc1) = some (.bus 0xFF#8) ∧
    reply 0x00FF0F00#32 (demoXram .mbc1) = some (.bus 0xFF#8) := by
  decide

/-- V-MBC1-1, V-MBC1-2. -/
theorem test_mbc1_ramen :
    after (·.bus.mbc.ramEnabled) 0x011FFFFA#32 (demo .mbc1) = some true ∧
    after (·.bus.mbc.ramEnabled) 0x010000A0#32 (demoXram .mbc1) = some false := by
  decide

/-- V-MBC1-5, V-MBC1-7: the reading of decision D10. -/
theorem test_mbc1_romb :
    after (·.bus.mbc.romBank) 0x01200020#32 (demoMbc .mbc1 ⟨5#9, 0#4, false, .rom⟩) = some 0x01#9 ∧
    after (·.bus.mbc.romBank) 0x01200000#32 (demoMbc .mbc1 ⟨0x41#9, 0#4, false, .rom⟩) = some 0x41#9 := by
  decide

/-- V-MBC1-6. -/
theorem test_mbc1_rombhi :
    after (·.bus.mbc) 0x01400002#32 (demoMbc .mbc1 ⟨5#9, 2#4, false, .rom⟩) = some ⟨0x45#9, 2#4, false, .rom⟩ := by
  decide

/-- V-MBC1-10. -/
theorem test_mbc1_ramb :
    after (·.bus.mbc) 0x014000FE#32 (demoMbc .mbc1 ⟨0x45#9, 3#4, false, .ram⟩) = some ⟨0x45#9, 2#4, false, .ram⟩ := by
  decide

/-- V-MBC1-9. -/
theorem test_mbc1_mode :
    after (·.bus.mbc) 0x017FFF03#32 (demo .mbc1) = some ⟨1#9, 0#4, false, .ram⟩ ∧
    after (·.bus.mbc) 0x016000FE#32 (demoMbc .mbc1 ⟨1#9, 2#4, false, .ram⟩) = some ⟨1#9, 2#4, false, .rom⟩ := by
  decide

/-- V-MBC2-1. -/
theorem test_mbc2_ramtog :
    after (·.bus.mbc.ramEnabled) 0x01000000#32 (demo .mbc2) = some true ∧
    after (·.bus.mbc.ramEnabled) 0x0100000A#32 (demoXram .mbc2) = some false := by
  decide

/-- V-MBC2-3, V-MBC2-4. -/
theorem test_mbc2_romb :
    after (·.bus.mbc.romBank) 0x013FFFF3#32 (demo .mbc2) = some 3#9 ∧
    after (·.bus.mbc.romBank) 0x01210000#32 (demo .mbc2) = some 0#9 := by
  decide

/-- V-MBC2-2, V-MBC2-5, V-MBC2-6. -/
theorem test_mbc2_nops :
    after (·.bus.mbc) 0x0101000A#32 (demo .mbc2) = some ⟨1#9, 0#4, false, .rom⟩ ∧
    after (·.bus.mbc) 0x01200003#32 (demo .mbc2) = some ⟨1#9, 0#4, false, .rom⟩ ∧
    after (·.bus.mbc) 0x01600001#32 (demo .mbc2) = some ⟨1#9, 0#4, false, .rom⟩ := by
  decide

/-- V-SRC-3. -/
theorem test_mbc3_ramen :
    after (·.bus.mbc.ramEnabled) 0x0100000A#32 (demo .mbc3) = some true ∧
    after (·.bus.mbc.ramEnabled) 0x0100001B#32 (demoXram .mbc3) = some false := by
  decide

/-- The examples of R221: 0x7F, and 0x80 coerced to 1. -/
theorem test_mbc3_romb :
    after (·.bus.mbc.romBank) 0x0120007F#32 (demo .mbc3) = some 0x7F#9 ∧
    after (·.bus.mbc.romBank) 0x01200080#32 (demo .mbc3) = some 1#9 := by
  decide

/-- R222: the value 0x0A, no clock register. -/
theorem test_mbc3_ramb :
    after (·.bus.mbc) 0x0140000A#32 (demo .mbc3) = some ⟨1#9, 2#4, false, .rom⟩ := by
  decide

/-- V-SRC-11. -/
theorem test_mbc3_rtclatch :
    after id 0x017FFFFF#32 (demoXram .mbc3) = some (demoXram .mbc3) := by
  decide

/-- V-SRC-3. -/
theorem test_mbc5_ramen :
    after (·.bus.mbc.ramEnabled) 0x0100000A#32 (demo .mbc5) = some true ∧
    after (·.bus.mbc.ramEnabled) 0x011000A0#32 (demoXram .mbc5) = some false := by
  decide

/-- The example of R231; bit 8 kept. -/
theorem test_mbc5_romblo :
    after (·.bus.mbc.romBank) 0x012000FF#32 (demo .mbc5) = some 0x0FF#9 ∧
    after (·.bus.mbc.romBank) 0x01200000#32 (demoMbc .mbc5 ⟨0x1FF#9, 0#4, false, .rom⟩) = some 0x100#9 := by
  decide

/-- The example of R232; 0xFE clears bit 8. -/
theorem test_mbc5_rombhi :
    after (·.bus.mbc.romBank) 0x01300001#32 (demoMbc .mbc5 ⟨0x0FF#9, 0#4, false, .rom⟩) = some 0x1FF#9 ∧
    after (·.bus.mbc.romBank) 0x013000FE#32 (demoMbc .mbc5 ⟨0x1FF#9, 0#4, false, .rom⟩) = some 0x0FF#9 := by
  decide

/-- The example of R233. -/
theorem test_mbc5_ramb :
    after (·.bus.mbc.ramBank) 0x0140001F#32 (demo .mbc5) = some 0xF#4 := by
  decide

/-- R234. -/
theorem test_mbc5_nop6 :
    after (·.bus.mbc) 0x01600001#32 (demo .mbc5) = some ⟨1#9, 0#4, false, .rom⟩ := by
  decide

/-- V-BUS-2, V-BUS-6, V-BUS-7: nothing stored. -/
theorem test_wr_fallback :
    after (·.bus) 0x019FFF34#32 (demo .mbc1) = some (demo .mbc1).bus ∧
    after (·.bus) 0x01FE0017#32 (demo .mbc1) = some (demo .mbc1).bus ∧
    after (·.bus) 0x01FF0F1F#32 (demo .mbc1) = some (demo .mbc1).bus := by
  decide

/-- V-MBC2-7: the low nibble under MBC2; V-BUS-16: discarded while disabled. -/
theorem test_wr_xram :
    after (·.bus.xram) 0x01A000AB#32 (demoMbc .mbc2 ⟨1#9, 0#4, true, .rom⟩) = some [(0, 0x0B#8)] ∧
    after (·.bus.xram) 0x01A00025#32 (demo .mbc1) = some [] := by
  decide

/-- V-BUS-14: beyond XRAM_SIZE the write is discarded, not wrapped. -/
theorem test_wr_xram_range :
    after (·.bus.xram) 0x01A00023#32 { demoMbc .mbc1 ⟨1#9, 1#4, true, .rom⟩ with cfg := { demoConfig .mbc1 with xramSize := 0x2000 } } =
      some [] := by
  decide

/-- V-BUS-4, V-BUS-5. -/
theorem test_wr_wram_echo :
    after (·.bus.wram) 0x01DFFF13#32 (demo .mbc1) = some [(0x1FFF, 0x13#8)] ∧
    after (·.bus.wram) 0x01FDFF15#32 (demo .mbc1) = some [(0x1DFF, 0x15#8)] := by
  decide

/-- V-BUS-8, V-BUS-9. -/
theorem test_wr_hram_ie :
    after (·.bus.hram) 0x01FFFE43#32 (demo .mbc1) = some [(126, 0x43#8)] ∧
    after (fun s => (s.bus.hram, s.bus.ie)) 0x01FFFF1F#32 (demo .mbc1) = some ([], 0x1F#8) := by
  decide

/-- Storing what an unlisted cell reads as removes the entry. -/
theorem test_write_keeps_canonical_form :
    after (·.bus.wram) 0x01C01200#32 (demoXram .mbc1) = some [] := by
  decide

/-- R280, R282: a power-up table with an I/O write and a write to 0xFFFF. -/
theorem test_powerup :
    (State.resetOf { demoConfig .mbc1 with powerupWrites := [(0xFF40#16, 0x91#8), (0xFFFF#16, 0x05#8)] }).bus =
      { (demo .mbc1).bus with ie := 0x05#8 } := by
  decide

/-- R2: nothing presented, nothing happens. -/
theorem test_step_idle :
    (match step State.reset with
      | .next s => decide (s = State.reset)
      | .fault _ => false
      | .refused _ => false) = true := by
  decide

/-- R116: the textual forms of the rule's own examples. -/
theorem test_text :
    instrText (.rdRomx 0x4000#16) = "RD 0x4000" ∧ instrText (.wr16 .sp 0xFFFE#16) = "WR16 SP, 0xFFFE" ∧
    instrText (.wrctl .stopped true) = "WRCTL STOPPED, 1" ∧ instrText (.wrIe 0x05#8) = "WR 0xFFFF, 0x05" ∧
    lineText (.rdRomx 0x4000#16) (.bus 0x01#8) = "RD 0x4000 -> 0x01" ∧ lineText (.rd8 .e) (.reg 0x00D8#16) = "RD8 E -> 0xD8" ∧
    lineText .bump (.reg 0x0100#16) = "BUMP -> 0x0100" ∧ lineText (.rdctl .halted) (.reg 0#16) = "RDCTL HALTED -> 0" := by
  decide

/-- R117: expansions. -/
theorem test_pseudo :
    Pseudo.expand (demo .mbc1) (.rombank 0x45) = some [0x01200005#32, 0x01400002#32] ∧
    Pseudo.expand (demo .mbc2) (.rombank 0x07) = some [0x01210007#32] ∧
    Pseudo.expand (demo .mbc5) (.rombank 0x1FF) = some [0x012000FF#32, 0x01300001#32] ∧
    Pseudo.expand (demo .mbc2) (.rombank 0x10) = none ∧
    Pseudo.expand (demo .mbc1) .fetch = some [0x84000000#32, 0x00010000#32] ∧
    Pseudo.expand (demo .mbc3) (.rambank 2#8) = some [0x01400002#32] ∧
    Pseudo.expand (demo .mbc1) .ramon = some [0x0100000A#32] := by
  decide

/-! ### Witnesses: states and operands that meet the hypotheses of the statements -/

/-- A power-up table with no control write: the lowest address allowed. -/
theorem witness_ResetSetsLatchesAndController :
    ∀ w ∈ ({ demoConfig .mbc1 with powerupWrites := [(0x8000#16, 0x91#8)] } : Config).powerupWrites, 0x8000 ≤ w.1.toNat := by
  simp

/-- A table at both ends of the I/O range and at 0xFFFF. -/
theorem witness_PowerupIoWritesStoreNothing :
    ∀ w ∈ ({ demoConfig .mbc1 with
        powerupWrites := [(0xFF00#16, 0x91#8), (0xFF7F#16, 0x80#8), (0xFFFF#16, 0x05#8)] } : Config).powerupWrites,
      (0xFF00 ≤ w.1.toNat ∧ w.1.toNat ≤ 0xFF7F) ∨ w.1.toNat = 0xFFFF := by
  simp

/-- A well-formed configuration that is not the standard one. -/
theorem witness_ResetMeetsInvariant :
    (demoConfig .mbc2).wf = true := by
  decide

/-- Reachable states exist, and a step from one of them ends in a next state. -/
theorem witness_ConfigurationNeverChanges :
    Reachable (demoConfig .mbc1) (demo .mbc1) ∧ ∃ t, step ((demo .mbc1).present 0x84000000#32) = .next t :=
  ⟨.reset, _, rfl⟩

/-- The invariant holds with all four flags set. -/
theorem witness_Rd8ReturnsRegister :
    (demoF 0xF0#8).Inv := by
  decide

/-- The invariant and a mask with only its low nibble. -/
theorem witness_FtestIsAnyFlagOfMask :
    (demoF 0xF0#8).Inv ∧
    0x0F#8 &&& 0xF0#8 = 0#8 := by
  decide

/-- A bus write and a `WRCTL` are among the operations the clauses speak of. -/
theorem witness_LatchesGateNothing :
    (∀ c, Instr.wrIe 0#8 ≠ .rdctl c) ∧ (∀ b, Instr.wrctl .ime true ≠ .wrctl .halted b) := by
  constructor
  · intro c h; cases h
  · intro b h; cases h

/-- An operation that writes neither F nor SP, and one that writes SP. -/
theorem witness_OnlyExplicitWritersChangeFAndSp :
    (∃ t, exec .bump (demoF 0x80#8) = .next t) ∧ (∀ v, Instr.bump ≠ .wr8 .f v) ∧ (∀ v, Instr.bump ≠ .wr16 .af v) ∧
    (∀ m, Instr.bump ≠ .fset m) ∧ (∀ m, Instr.bump ≠ .fclr m) ∧ (∀ m b, Instr.bump ≠ .fput m b) ∧
    ∃ t, exec (.wr16 .sp 0xD000#16) (demoF 0x80#8) = .next t := by
  refine ⟨⟨_, rfl⟩, ?_, ?_, ?_, ?_, ?_, _, rfl⟩ <;> intros <;> intro h <;> cases h

/-- Each of the three arms: `BUMP`, `WR16 PC`, another operation. -/
theorem witness_OnlyBumpAndWr16ChangePc :
    (∃ t, exec .bump (demo .mbc1) = .next t) ∧ (∃ t, exec (.wr16 .pc 0x4000#16) (demo .mbc1) = .next t) ∧
    ∃ t, exec .inchl (demo .mbc1) = .next t :=
  ⟨⟨_, rfl⟩, ⟨_, rfl⟩, _, rfl⟩

/-- A register operation on two states with the same registers and different buses, and a bus operation on two states
with the same bus and different registers. -/
theorem witness_PortsAreUncoupled :
    Instr.bump.isRegOp = true ∧ (demo .mbc1).rf = (demoXram .mbc1).rf ∧ (demo .mbc1).bus ≠ (demoXram .mbc1).bus ∧
    (Instr.rdXram 0xA010#16).isRegOp = false ∧ (demo .mbc1).bus = (demoF 0x80#8).bus ∧
    (demo .mbc1).cfg = (demoF 0x80#8).cfg ∧ (demo .mbc1).rf ≠ (demoF 0x80#8).rf ∧
    (∃ t, exec .bump (demo .mbc1) = .next t) ∧ ∃ t, exec (.rdXram 0xA010#16) (demo .mbc1) = .next t := by
  refine ⟨rfl, rfl, by decide, rfl, rfl, rfl, by decide, ⟨_, rfl⟩, _, rfl⟩

/-- Both ends of the window; an index inside the image and one beyond it. -/
theorem witness_Rom0ReadIsFixedBank :
    (0x0000#16).extractLsb' 14 2 = 0#2 ∧
    (0x3FFF#16).extractLsb' 14 2 = 0#2 ∧
    (0x3FFF#16).toNat < (demo .mbc1).cfg.romLen ∧
    State.reset.cfg.romLen ≤ (0x0000#16).toNat := by
  decide

/-- Both ends of the window; an index inside the image and one beyond it. -/
theorem witness_RomxReadIsSelectedBank :
    (0x4000#16).extractLsb' 14 2 = 1#2 ∧
    (0x7FFF#16).extractLsb' 14 2 = 1#2 ∧
    (0x7FFF#16).toNat - 0x4000 + (demo .mbc1).bus.mbc.romBank.toNat * 0x4000 < (demo .mbc1).cfg.romLen ∧
    State.reset.cfg.romLen ≤ (0x4000#16).toNat - 0x4000 + State.reset.bus.mbc.romBank.toNat * 0x4000 := by
  decide

/-- Both ends of the window; disabled; enabled and in range at its last cell; enabled and beyond. -/
theorem witness_XramReadIsGated :
    (0xA000#16).extractLsb' 13 3 = 5#3 ∧
    (0xBFFF#16).extractLsb' 13 3 = 5#3 ∧
    (demo .mbc1).bus.mbc.ramEnabled = false ∧
    (demoXram .mbc1).bus.mbc.ramEnabled = true ∧
    (0xBFFF#16).toNat - 0xA000 + (demoXram .mbc1).bus.mbc.ramBank.toNat * 0x2000 < (demoXram .mbc1).cfg.xramSize ∧
    (demoXram .mbc1).cfg.xramSize ≤
      (0xA000#16).toNat - 0xA000 + (demoMbc .mbc5 ⟨1#9, 4#4, true, .rom⟩).bus.mbc.ramBank.toNat * 0x2000 := by
  decide

/-- Both ends of each window, and the first address above the mirror. -/
theorem witness_WramAndEchoReadSameCells :
    0xFE00 ≤ (0xFE00#16).toNat ∧
    (0xC000#16).extractLsb' 13 3 = 6#3 ∧
    (0xDFFF#16).extractLsb' 13 3 = 6#3 ∧
    (0xE000#16).extractLsb' 13 3 = 7#3 ∧
    (0xFDFF#16).extractLsb' 13 3 = 7#3 ∧
    (0xFDFF#16).toNat ≤ 0xFDFF := by
  decide

/-- Both ends of scratch RAM, and the address below it. -/
theorem witness_HramAndIeRead :
    (0xFF7F#16).toNat ≤ 0xFF7F ∧
    (0xFF80#16).extractLsb' 7 9 = 0x1FF#9 ∧
    (0xFFFE#16).extractLsb' 7 9 = 0x1FF#9 ∧
    (0xFFFE#16) ≠ (0xFFFF#16) := by
  decide

/-- Both ends of each fallback range. -/
theorem witness_FallbackReadsAreOpenBus :
    (0x8000#16).extractLsb' 13 3 = 4#3 ∧
    (0x9FFF#16).extractLsb' 13 3 = 4#3 ∧
    (0xFE00#16).extractLsb' 8 8 = 0xFE#8 ∧
    (0xFEFF#16).extractLsb' 8 8 = 0xFE#8 ∧
    (0xFF00#16).extractLsb' 7 9 = 0x1FE#9 ∧
    (0xFF7F#16).extractLsb' 7 9 = 0x1FE#9 := by
  decide

/-- A state that meets the invariant and holds a cell; the windows are those of the reads. -/
theorem witness_WramAndEchoWriteOneCell :
    (demoXram .mbc1).Inv ∧
    (0xDFFF#16).extractLsb' 13 3 = 6#3 ∧
    (0xFDFF#16).extractLsb' 13 3 = 7#3 ∧
    (0xFDFF#16).toNat ≤ 0xFDFF := by
  decide

/-- A state that meets the invariant, at both ends of scratch RAM. -/
theorem witness_HramAndIeWrite :
    (demoXram .mbc1).Inv ∧
    (0xFF80#16).extractLsb' 7 9 = 0x1FF#9 ∧
    (0xFFFE#16).extractLsb' 7 9 = 0x1FF#9 ∧
    (0xFFFE#16) ≠ (0xFFFF#16) := by
  decide

/-- Disabled; enabled and in range at its last cell; enabled and beyond; each with the invariant. -/
theorem witness_XramWriteIsGatedAndMasked :
    (demo .mbc1).Inv ∧
    (demo .mbc1).bus.mbc.ramEnabled = false ∧
    (0xBFFF#16).extractLsb' 13 3 = 5#3 ∧
    (demoXram .mbc1).Inv ∧
    (demoXram .mbc1).bus.mbc.ramEnabled = true ∧
    (0xBFFF#16).toNat - 0xA000 + (demoXram .mbc1).bus.mbc.ramBank.toNat * 0x2000 < (demoXram .mbc1).cfg.xramSize ∧
    (demoMbc .mbc5 ⟨1#9, 4#4, true, .rom⟩).Inv ∧
    (demo .mbc5).cfg.xramSize ≤
      (0xA000#16).toNat - 0xA000 + (demoMbc .mbc5 ⟨1#9, 4#4, true, .rom⟩).bus.mbc.ramBank.toNat * 0x2000 := by
  decide

/-- One address of each range, at an edge. -/
theorem witness_FallbackWritesAreNoOps :
    (0x9FFF#16).extractLsb' 13 3 = 4#3 ∧
    (0xFEFF#16).extractLsb' 8 8 = 0xFE#8 ∧
    (0xFF7F#16).extractLsb' 7 9 = 0x1FE#9 := by
  decide

/-- Disabled, and enabled with the index beyond the size. -/
theorem witness_BusHasNoIllegalAccess :
    (demo .mbc1).bus.mbc.ramEnabled = false ∧
    (demo .mbc5).cfg.xramSize ≤ xramIndex (demoMbc .mbc5 ⟨1#9, 4#4, true, .rom⟩).bus.mbc 0xA000#16 := by
  decide

/-- States of MBC1 and MBC5 that meet the invariant, external RAM disabled and with the index beyond it; the upper edge of
every range. -/
theorem witness_WriteChangesAtMostOneRegion :
    (demoMbc .mbc1 ⟨0x7F#9, 3#4, true, .ram⟩).Inv ∧
    (demo .mbc1).Inv ∧
    (demo .mbc1).bus.mbc.ramEnabled = false ∧
    (demoMbc .mbc5 ⟨0x1FF#9, 0xF#4, true, .rom⟩).Inv ∧
    (demo .mbc5).cfg.xramSize ≤ xramIndex (demoMbc .mbc5 ⟨0x1FF#9, 0xF#4, true, .rom⟩).bus.mbc 0xBFFF#16 ∧
    (0x7FFF#16).toNat ≤ 0x7FFF ∧
    0x8000 ≤ (0x9FFF#16).toNat ∧ (0x9FFF#16).toNat ≤ 0x9FFF ∧
    0xA000 ≤ (0xBFFF#16).toNat ∧ (0xBFFF#16).toNat ≤ 0xBFFF ∧
    0xC000 ≤ (0xFDFF#16).toNat ∧ (0xFDFF#16).toNat ≤ 0xFDFF ∧
    0xFE00 ≤ (0xFF7F#16).toNat ∧ (0xFF7F#16).toNat ≤ 0xFF7F ∧
    0xFF80 ≤ (0xFFFE#16).toNat ∧ (0xFFFE#16).toNat ≤ 0xFFFE := by
  decide

/-- Both ends of the mirrored part. -/
theorem witness_MirrorLaw :
    (demoXram .mbc1).Inv ∧
    0xC000 ≤ (0xC000#16).toNat ∧
    (0xDDFF#16).toNat ≤ 0xDDFF ∧
    0xE000#16 = 0xC000#16 + 0x2000#16 ∧
    0xFDFF#16 = 0xDDFF#16 + 0x2000#16 := by
  decide

/-- The edges of the storage ranges, and an enabled external RAM cell in range. -/
theorem witness_StorageReadsBackWrite :
    (demoMbc .mbc2 ⟨1#9, 0#4, true, .rom⟩).Inv ∧
    (0xC000 ≤ (0xFDFF#16).toNat ∧ (0xFDFF#16).toNat ≤ 0xFDFF) ∨ 0xFF80 ≤ (0xFDFF#16).toNat ∧
    0xFF80 ≤ (0xFF80#16).toNat ∧
    0xFF80 ≤ (0xFFFF#16).toNat ∧
    0xA000 ≤ (0xBFFF#16).toNat ∧
    (0xBFFF#16).toNat ≤ 0xBFFF ∧
    (demoMbc .mbc2 ⟨1#9, 0#4, true, .rom⟩).bus.mbc.ramEnabled = true ∧
    (0xBFFF#16).toNat - 0xA000 + (demoMbc .mbc2 ⟨1#9, 0#4, true, .rom⟩).bus.mbc.ramBank.toNat * 0x2000 < (demo .mbc2).cfg.xramSize := by
  decide

/-- A write to work RAM, and another address of work RAM that is not its mirror. -/
theorem witness_WriteLeavesOtherReadsAlone :
    0x8000 ≤ (0xC000#16).toNat ∧ (0xC001#16) ≠ (0xC000#16) ∧
    ¬ (0xC000 ≤ (0xC000#16).toNat ∧ (0xC000#16).toNat ≤ 0xFDFF ∧ 0xC000 ≤ (0xC001#16).toNat ∧
      (0xC001#16).toNat ≤ 0xFDFF ∧
      ((0xC001#16).toNat = (0xC000#16).toNat + 0x2000 ∨ (0xC000#16).toNat = (0xC001#16).toNat + 0x2000)) ∧
    ∃ t, step ((demo .mbc1).present (wrWord 0xC000#16 0x10#8)) = .next t :=
  ⟨by decide, by decide, by decide, _, rfl⟩

/-- Both ends of the range, and a state of each of the three variants. -/
theorem witness_RamEnableByLowNibble :
    (0x0000#16).extractLsb' 13 3 = 0#3 ∧
    (0x1FFF#16).extractLsb' 13 3 = 0#3 ∧
    (demo .mbc1).cfg.variant = .mbc1 ∧
    (demo .mbc3).cfg.variant = .mbc3 ∧
    (demo .mbc5).cfg.variant = .mbc5 := by
  decide

/-- The largest MBC1 bank. -/
theorem witness_Mbc1RomBankLowBits :
    (demoMbc .mbc1 ⟨0x7F#9, 0#4, false, .rom⟩).bus.mbc.romBank.toNat ≤ 0x7F := by
  decide

/-- Both ends of the range, both modes, the invariant. -/
theorem witness_Mbc1UpperBitsByMode :
    (demo .mbc1).cfg.variant = .mbc1 ∧
    (0x4000#16).extractLsb' 13 3 = 2#3 ∧
    (0x5FFF#16).extractLsb' 13 3 = 2#3 ∧
    (demo .mbc1).bus.mbc.bankMode = .rom ∧
    (demo .mbc1).Inv ∧
    (demoMbc .mbc1 ⟨1#9, 0#4, false, .ram⟩).cfg.variant = .mbc1 ∧
    (demoMbc .mbc1 ⟨1#9, 0#4, false, .ram⟩).bus.mbc.bankMode = .ram := by
  decide

/-- The edges of each range with the address bit as required. -/
theorem witness_Mbc2ToggleAndRomBank :
    (demo .mbc2).cfg.variant = .mbc2 ∧
    (0x1EFF#16).extractLsb' 13 3 = 0#3 ∧
    (0x1EFF#16).getLsbD 8 = false ∧
    (0x3FFF#16).extractLsb' 13 3 = 1#3 ∧
    (0x3FFF#16).getLsbD 8 = true := by
  decide

/-- The edges of each range. -/
theorem witness_Mbc3RamBankAndClockLatch :
    (demo .mbc3).cfg.variant = .mbc3 ∧
    (0x4000#16).extractLsb' 13 3 = 2#3 ∧
    (0x5FFF#16).extractLsb' 13 3 = 2#3 ∧
    (0x6000#16).extractLsb' 13 3 = 3#3 ∧
    (0x7FFF#16).extractLsb' 13 3 = 3#3 := by
  decide

/-- The edges of each range. -/
theorem witness_Mbc5BankRegisters :
    (demo .mbc5).cfg.variant = .mbc5 ∧
    (0x2FFF#16).extractLsb' 12 4 = 2#4 ∧
    (0x3000#16).extractLsb' 12 4 = 3#4 ∧
    (0x5FFF#16).extractLsb' 13 3 = 2#3 ∧
    (0x6000#16).extractLsb' 13 3 = 3#3 := by
  decide

/-- A control write, and for each of the four one-field clauses a state it completes in. -/
theorem witness_ControlWritesChangeControllerOnly :
    (Instr.wrMbc3Rtclatch 0x6000#16 1#8).isControl = true ∧ (demo .mbc1).bus.mbc.romBank.toNat ≤ 0x7F ∧
    (∃ t, exec (.wrMbc1Romb 0x2000#16 5#8) (demo .mbc1) = .next t) ∧
    (∃ t, exec (.wrMbc1Rombhi 0x4000#16 2#8) (demo .mbc1) = .next t) ∧
    (∃ t, exec (.wrMbc5Romblo 0x2000#16 0xFF#8) (demo .mbc5) = .next t) ∧
    ∃ t, exec (.wrMbc5Rombhi 0x3000#16 1#8) (demo .mbc5) = .next t :=
  ⟨rfl, by decide, ⟨_, rfl⟩, ⟨_, rfl⟩, ⟨_, rfl⟩, _, rfl⟩

/-- The reset state is reachable and holds the reset value of the controller. -/
theorem witness_ReachableControllerValues :
    ∃ s, Reachable (demoConfig .mbc2) s ∧ s.bus.mbc = ⟨1#9, 0#4, false, .rom⟩ :=
  ⟨demo .mbc2, .reset, rfl⟩

/-- A storage write under MBC2 at an address that is not the toggle's, and a toggle. -/
theorem witness_WritesAreIdempotentButToggle :
    (demo .mbc2).Inv ∧
    ¬ ((demo .mbc2).cfg.variant = .mbc2 ∧ (0x0100#16).toNat ≤ 0x1FFF ∧ (0x0100#16).toNat / 256 % 2 = 0) ∧
    (∃ t, step ((demo .mbc2).present (wrWord 0x0100#16 0x0A#8)) = .next t) ∧
    ∃ t, exec (.wrMbc2Ramtog 0x0000#16 0#8) (demo .mbc2) = .next t :=
  ⟨by decide, by decide, ⟨_, rfl⟩, _, rfl⟩

/-- Disabling and enabling again, and the state it ends in. -/
theorem witness_XramSurvivesControlWrites :
    (∀ c ∈ [((0x0000#16, 0x00#8) : Word × Byte), (0x1FFF#16, 0x0A#8)], c.1.toNat ≤ 0x7FFF) ∧
    0xA000 ≤ (0xA010#16).toNat ∧ (0xA010#16).toNat ≤ 0xBFFF ∧
    ∃ t, runWords [wrWord 0x0000#16 0x00#8, wrWord 0x1FFF#16 0x0A#8] (demoXram .mbc1) = .next t ∧
      t.bus.mbc.ramEnabled = (demoXram .mbc1).bus.mbc.ramEnabled ∧
      t.bus.mbc.ramBank = (demoXram .mbc1).bus.mbc.ramBank :=
  ⟨by simp, by decide, by decide, _, rfl, by decide, by decide⟩

/-- The invariant and an expansion, under each variant and in both MBC1 modes, at the largest bank. -/
theorem witness_RombankSelectsBank :
    (demo .mbc1).Inv ∧
    ((Pseudo.rombank 0x7F).expand (demo .mbc1)).isSome = true ∧
    (demoMbc .mbc1 ⟨0x7F#9, 0#4, false, .ram⟩).Inv ∧
    ((Pseudo.rombank 0x7F).expand (demoMbc .mbc1 ⟨0x7F#9, 0#4, false, .ram⟩)).isSome = true ∧
    (demo .mbc2).Inv ∧
    ((Pseudo.rombank 0x0F).expand (demo .mbc2)).isSome = true ∧
    (demo .mbc3).Inv ∧
    ((Pseudo.rombank 0x7F).expand (demo .mbc3)).isSome = true ∧
    (demo .mbc5).Inv ∧
    ((Pseudo.rombank 0x1FF).expand (demo .mbc5)).isSome = true := by
  decide

/-- The PC at the edges of work RAM with its mirror, of scratch RAM and at 0xFFFF, and at the last byte of enabled external
RAM under MBC2. -/
theorem witness_FetchReadsByteAtPc :
    (demoPc .mbc1 0xC000#16).Inv ∧ 0xC000 ≤ (demoPc .mbc1 0xC000#16).rf.pc.toNat ∧
    (demoPc .mbc1 0xFDFF#16).Inv ∧ (demoPc .mbc1 0xFDFF#16).rf.pc.toNat ≤ 0xFDFF ∧
    (demoPc .mbc1 0xFF80#16).Inv ∧ 0xFF80 ≤ (demoPc .mbc1 0xFF80#16).rf.pc.toNat ∧
    (demoPc .mbc1 0xFFFF#16).Inv ∧ 0xFF80 ≤ (demoPc .mbc1 0xFFFF#16).rf.pc.toNat ∧
    (demoPc .mbc2 0xBFFF#16).Inv ∧ 0xA000 ≤ (demoPc .mbc2 0xBFFF#16).rf.pc.toNat ∧
    (demoPc .mbc2 0xBFFF#16).rf.pc.toNat ≤ 0xBFFF ∧ (demoPc .mbc2 0xBFFF#16).bus.mbc.ramEnabled = true ∧
    xramIndex (demoPc .mbc2 0xBFFF#16).bus.mbc 0xBFFF#16 < (demoPc .mbc2 0xBFFF#16).cfg.xramSize := by
  decide

/-- A well-formed operation in its context. -/
theorem witness_DecodeEncodeRoundTrip :
    (Instr.wrMbc2Romb 0x3FFF#16 0xF3#8).wf = true ∧
    Instr.inContext ctx2 (.wrMbc2Romb 0x3FFF#16 0xF3#8) = true := by
  decide

/-- A word that decodes. -/
theorem witness_EncodeDecodeRoundTrip :
    decode ctx2 0x013FFFF3#32 = .ok (.wrMbc2Romb 0x3FFF#16 0xF3#8) := by
  decide

/-- A word of each format. -/
theorem witness_ReservedWordsAreExactlyRejected :
    (0x02000000#32).getLsbD 31 = false ∧
    (0x87000000#32).getLsbD 31 = true := by
  decide

/-- A presented word that decodes, and a well-formed operation of the context. -/
theorem witness_StepRunsDecodedInstruction :
    ((demo .mbc1).present 0x84000000#32).pending = [0x84000000#32] ∧
    decode ((demo .mbc1).present 0x84000000#32).context 0x84000000#32 = .ok .bump ∧
    Instr.bump.wf = true ∧ Instr.inContext (demo .mbc1).context .bump = true :=
  ⟨rfl, by decide, rfl, rfl⟩

/-- Nothing presented; a presented word that spells no operation. -/
theorem witness_StepRefusesOnlyReservedWords :
    (demo .mbc1).pending = [] ∧ ((demo .mbc1).present 0x87000000#32).pending = [0x87000000#32] ∧
    decode ((demo .mbc1).present 0x87000000#32).context 0x87000000#32 = .error .unassignedOp :=
  ⟨rfl, rfl, by decide⟩

/-- A state that meets the invariant under each variant, and a step from one of them. -/
theorem witness_StepKeepsInvariant :
    (demo .mbc1).Inv ∧ (demo .mbc2).Inv ∧ (demo .mbc3).Inv ∧ (demo .mbc5).Inv ∧ (demoXram .mbc5).Inv ∧
    ∃ t, step ((demo .mbc1).present 0x815000FF#32) = .next t :=
  ⟨by decide, by decide, by decide, by decide, by decide, _, rfl⟩

/-- Two canonical memories that read alike: one built by a write, one written out. -/
theorem witness_EqualContentsAreEqualData :
    Memory.wf (Memory.write [(5, 0x01#8)] 3 0x02#8) = true ∧ Memory.wf [(3, 0x02#8), (5, 0x01#8)] = true ∧
    ∀ i, Memory.read (Memory.write [(5, 0x01#8)] 3 0x02#8) i = Memory.read [(3, 0x02#8), (5, 0x01#8)] i :=
  ⟨by decide, by decide, fun _ => rfl⟩

end Sys2Proof.Tests
end

section
/-! PROOFS. What one transaction can do, and the obligations about the scope of the block (00_scope.md): the
configuration never changes (O5), a step performs the oldest presented word (O57) and refuses only a word that spells
no operation (O58). -/

namespace Sys2Proof

/-! ### An operation's word decodes to it -/

open Laws.PortRoundTrip in
/-- R115: the port of a well-formed operation of the context decodes to the operation. -/
theorem decodePort_port : ∀ i : Instr, Statement i
  | .rd8 r => rd8 r
  | .wr8 r v => wr8 r v
  | .rd16 p => rd16 p
  | .wr16 p v => wr16 p v
  | .bump => bump
  | .inchl => inchl
  | .dechl => dechl
  | .ftest m => ftest m
  | .fset m => fset m
  | .fclr m => fclr m
  | .fput m b => fput m b
  | .rdctl c => rdctl c
  | .wrctl c b => wrctl c b
  | .rdRom0 a => rdRom0 a
  | .rdRomx a => rdRomx a
  | .rdGap8 a => rdGap8 a
  | .rdXram a => rdXram a
  | .rdWram a => rdWram a
  | .rdIe => rdIe
  | .rdHram a => rdHram a
  | .rdIo a => rdIo a
  | .rdGapfe a => rdGapfe a
  | .rdEcho a => rdEcho a
  | .wrMbc1Ramen a v => wrMbc1Ramen a v
  | .wrMbc1Romb a v => wrMbc1Romb a v
  | .wrMbc1Rombhi a v => wrMbc1Rombhi a v
  | .wrMbc1Ramb a v => wrMbc1Ramb a v
  | .wrMbc1Mode a v => wrMbc1Mode a v
  | .wrMbc2Ramtog a v => wrMbc2Ramtog a v
  | .wrMbc2Nop0 a v => wrMbc2Nop0 a v
  | .wrMbc2Romb a v => wrMbc2Romb a v
  | .wrMbc2Nop2 a v => wrMbc2Nop2 a v
  | .wrMbc2Nop4 a v => wrMbc2Nop4 a v
  | .wrMbc3Ramen a v => wrMbc3Ramen a v
  | .wrMbc3Romb a v => wrMbc3Romb a v
  | .wrMbc3Ramb a v => wrMbc3Ramb a v
  | .wrMbc3Rtclatch a v => wrMbc3Rtclatch a v
  | .wrMbc5Ramen a v => wrMbc5Ramen a v
  | .wrMbc5Romblo a v => wrMbc5Romblo a v
  | .wrMbc5Rombhi a v => wrMbc5Rombhi a v
  | .wrMbc5Ramb a v => wrMbc5Ramb a v
  | .wrMbc5Nop6 a v => wrMbc5Nop6 a v
  | .wrGap8 a v => wrGap8 a v
  | .wrXram a v => wrXram a v
  | .wrWram a v => wrWram a v
  | .wrIe v => wrIe v
  | .wrHram a v => wrHram a v
  | .wrIo a v => wrIo a v
  | .wrGapfe a v => wrGapfe a v
  | .wrEcho a v => wrEcho a v

/-- The word of a well-formed operation decodes to it in every context it belongs to. -/
theorem decode_encode {ctx : Context} {i : Instr} (hwf : i.wf = true) (hctx : i.inContext ctx = true) :
    decode ctx (encode i) = .ok i := by
  rw [decode, encode, i.splitWord_port]
  exact decodePort_port i ctx hwf hctx

/-- A word handed over as its 32-bit number is the word. -/
@[simp] theorem tableWord_toNat (t : TWord) : tableWord 32 t.toNat = t := by
  rw [tableWord, Nat.mod_eq_of_lt t.isLt, BitVec.ofNat_toNat, BitVec.setWidth_eq]

end Sys2Proof

namespace Sys2Proof.Machine

/-! ### What an operation can do -/

/-- R1, R64, R146: every operation completes in one of three ways: it answers and changes nothing, it changes the
registers, or it changes the address space. -/
theorem exec_cases (i : Instr) (s : State) :
    (∃ r, exec i s = .next (s.answer r)) ∨ (∃ g r, exec i s = .next (s.toRegs g r)) ∨
      ∃ sp, exec i s = .next (s.toBus sp) := by
  cases i with
  | rd8 | rd16 | ftest | rdctl
  | rdRom0 | rdRomx | rdGap8 | rdXram | rdWram | rdIe | rdHram | rdIo | rdGapfe | rdEcho =>
    exact .inl ⟨_, rfl⟩
  | wr8 | wr16 | bump | inchl | dechl | fset | fclr | fput | wrctl =>
    exact .inr (.inl ⟨_, _, rfl⟩)
  | wrMbc1Ramen | wrMbc1Romb | wrMbc1Rombhi | wrMbc1Ramb | wrMbc1Mode
  | wrMbc2Ramtog | wrMbc2Nop0 | wrMbc2Romb | wrMbc2Nop2 | wrMbc2Nop4
  | wrMbc3Ramen | wrMbc3Romb | wrMbc3Ramb | wrMbc3Rtclatch
  | wrMbc5Ramen | wrMbc5Romblo | wrMbc5Rombhi | wrMbc5Ramb | wrMbc5Nop6
  | wrGap8 | wrXram | wrWram | wrIe | wrHram | wrIo | wrGapfe | wrEcho =>
    exact .inr (.inr ⟨_, rfl⟩)

/-- R64, R146: every operation ends in a next state, of the same configuration (R4). -/
theorem exec_completes (i : Instr) (s : State) : ∃ t, exec i s = .next t ∧ t.cfg = s.cfg := by
  obtain ⟨r, h⟩ | ⟨g, r, h⟩ | ⟨sp, h⟩ := exec_cases i s
  · exact ⟨_, h, s.answer_cfg r⟩
  · exact ⟨_, h, s.toRegs_cfg g r⟩
  · exact ⟨_, h, s.toBus_cfg sp⟩

theorem exec_cfg {i : Instr} {s t : State} (h : exec i s = .next t) : t.cfg = s.cfg := by
  obtain ⟨t', h', hcfg⟩ := exec_completes i s
  rw [h] at h'
  cases h'
  exact hcfg

/-! ### What a step does, by what is presented -/

/-- Log entry 3: with nothing presented the block stays as it is. -/
theorem step_of_pending_nil {s : State} (hp : s.pending = []) : step s = .next s := by
  rw [step, State.takeWord, hp]

/-- A state with a word first in its queue is the state without that word, to which the word was presented. -/
theorem present_of_pending_cons {s : State} {w : TWord} {rest : List TWord} (hp : s.pending = w :: rest) :
    ({ s with pending := rest } : State).present w = s := by
  rw [State.present, ← hp]

theorem step_of_decode_ok {s : State} {w : TWord} {rest : List TWord} {i : Instr} (hp : s.pending = w :: rest)
    (hd : decode s.context w = .ok i) : step s = exec i { s with pending := rest } := by
  have h := step_present { s with pending := rest } w hd
  rwa [present_of_pending_cons hp] at h

theorem step_of_decode_error {s : State} {w : TWord} {rest : List TWord} {e : DecodeError}
    (hp : s.pending = w :: rest) (hd : decode s.context w = .error e) : step s = .refused (.reservedWord e) := by
  have h := step_present_error { s with pending := rest } w hd
  rwa [present_of_pending_cons hp] at h

/-- R250: there is no fault to stop with. -/
theorem step_ne_fault (s : State) (f : Fault) : step s ≠ .fault f := nomatch f

/-- R113, D16: a step refuses exactly the words that spell no operation, because every operation completes. -/
theorem step_refused_iff {s : State} {w : TWord} {rest : List TWord} (hp : s.pending = w :: rest) (r : Refusal) :
    step s = .refused r ↔ ∃ e, decode s.context w = .error e ∧ r = .reservedWord e := by
  cases hd : decode s.context w with
  | error e =>
    rw [step_of_decode_error hp hd]
    constructor
    · rintro ⟨⟩
      exact ⟨e, rfl, rfl⟩
    · rintro ⟨_, ⟨⟩, rfl⟩
      rfl
  | ok i =>
    obtain ⟨t, ht, -⟩ := exec_completes i { s with pending := rest }
    rw [step_of_decode_ok hp hd, ht]
    constructor
    · rintro ⟨⟩
    · rintro ⟨_, ⟨⟩, _⟩

/-! ### The configuration -/

/-- R4: no step changes the configuration. -/
theorem step_cfg {s t : State} (h : step s = .next t) : t.cfg = s.cfg := by
  obtain ⟨-, rfl⟩ | ⟨w, rest, i, -, -, hx⟩ := step_next_cases h
  · rfl
  · exact exec_cfg (s := { s with pending := rest }) hx

/-- R4, R7: every state of a run of a block carries the configuration the block was built with. -/
theorem Reachable.cfg_eq {cfg : Config} {s : State} (h : Reachable cfg s) : s.cfg = cfg := by
  induction h with
  | reset => rfl
  | transact t _ hstep ih => exact (step_cfg hstep).trans ih

/-! ### The obligations -/

/-- Settles O5: every operation ends by one of three updates that leave the configuration alone; reachable states by
induction over the run. -/
theorem configurationNeverChanges : Obligations.ConfigurationNeverChanges :=
  ⟨fun _ _ => step_cfg, fun _ => rfl, fun _ _ => Reachable.cfg_eq⟩

/-- Settles O57: the queue's first word is taken off and its operation runs; the word of a well-formed operation of the
context decodes to it. -/
theorem stepRunsDecodedInstruction : Obligations.StepRunsDecodedInstruction := by
  refine ⟨fun s w rest i => step_of_decode_ok, fun s i hwf hctx => ?_⟩
  rw [State.withFetchWord, tableWord_toNat]
  exact step_present s _ (decode_encode hwf hctx)

/-- Settles O58: no operation refuses, so a refusal comes from the decoder alone. -/
theorem stepRefusesOnlyReservedWords : Obligations.StepRefusesOnlyReservedWords :=
  fun s => ⟨step_of_pending_nil, step_ne_fault s, fun _ _ => step_refused_iff⟩

end Sys2Proof.Machine
end

section
/-! PROOFS. What each port's transactions do, said once (a bus read is `memRead`, a bus write is `memWrite`, a register
operation touches RegisterFile alone), and the obligations about the state (10_state.md): the registers at reset (O1),
the invariant at reset and along every step (O4, O59), and the latches, which gate nothing (O15). -/

namespace Sys2Proof

/-! ### What a word decodes to -/

/-- A field of an address in numbers, for a field compared with a literal. -/
theorem extract_eq_ofNat_iff {a : Word} {lo w k : Nat} :
    a.extractLsb' lo w = BitVec.ofNat w k ↔ a.toNat / 2 ^ lo % 2 ^ w = k % 2 ^ w := by
  rw [extract_eq_iff, Nat.shiftRight_eq_div_pow, BitVec.toNat_ofNat]

/-- R101: an operation that travels on the register port is one of the 13. -/
theorem isRegOp_of_port {i : Instr} {op : BitVec 6} {sel : BitVec 4} {imm : Word} (h : i.port = .reg op sel imm) :
    i.isRegOp = true := by
  cases i with
  | rd8 | wr8 | rd16 | wr16 | bump | inchl | dechl | ftest | fset | fclr | fput | rdctl | wrctl => rfl
  | _ => cases h

/-- A word that spells an operation spells a bus read, a bus write or a register operation. -/
theorem decode_ok_cases {ctx : Context} {w : TWord} {i : Instr} (h : decode ctx w = .ok i) :
    (∃ a, i = decodeRead a) ∨ (∃ a v, i = decodeWrite ctx a v) ∨ i.isRegOp = true := by
  unfold decode at h
  split at h
  · cases h
  · next p _ =>
    match p, h with
    | .bus false a _, rfl => exact .inl ⟨a, rfl⟩
    | .bus true a v, rfl => exact .inr (.inl ⟨a, v, rfl⟩)
    | .reg _ _ _, h => exact .inr (.inr (isRegOp_of_port (decodeReg_ok h).1))

end Sys2Proof

namespace Sys2Proof.Machine

/-! ### The bus port: a read is `memRead`, a write is `memWrite` -/

/-- R61, R62, R170: the operation a read decodes to answers what `memRead` finds, and changes nothing. -/
theorem exec_decodeRead (s : State) (a : Word) :
    exec (decodeRead a) s = .next (s.answer (.bus (memRead s.cfg s.bus a))) := by
  have ha : a.toNat < 65536 := a.isLt
  simp only [decodeRead, extract_eq_ofNat_iff, BitVec.toNat_eq (y := 0xFFFF#16), BitVec.toNat_ofNat]
  split
  · rw [memRead_rom0 _ _ (by omega)]; rfl
  split
  · rw [memRead_romx _ _ (by omega) (by omega)]; rfl
  split
  · rw [memRead_gap8 _ _ (by omega) (by omega)]; rfl
  split
  · rw [memRead_xram _ _ (by omega) (by omega)]; rfl
  split
  · rw [memRead_wram _ _ (by omega) (by omega)]; rfl
  split
  · rw [memRead_ie _ _ (by omega)]; rfl
  split
  · rw [memRead_hram _ _ (by omega) (by omega)]; rfl
  split
  · rw [memRead_io _ _ (by omega) (by omega)]; rfl
  split
  · rw [memRead_gapfe _ _ (by omega) (by omega)]; rfl
  · rw [memRead_echo _ _ (by omega) (by omega)]; rfl

section
variable (s : State) {a : Word} (v : Byte) (h : a.toNat < 0x8000)
include h

/-- R109, column MBC1: R200 to R204. -/
theorem exec_decodeMbc1 :
    exec (decodeMbc1 s.bus.mbc.bankMode a v) s = .next (s.toMbc (s.bus.mbc.controlMbc1 a v)) := by
  simp only [decodeMbc1, BankController.controlMbc1, extract_eq_ofNat_iff]
  split
  · rw [if_pos (by omega)]; rfl
  split
  · rw [if_neg (by omega), if_pos (by omega)]; rfl
  split
  · rw [if_neg (by omega), if_neg (by omega), if_pos (by omega)]
    cases s.bus.mbc.bankMode <;> rfl
  · rw [if_neg (by omega), if_neg (by omega), if_neg (by omega)]; rfl

/-- R109, column MBC2: R210 to R214. -/
theorem exec_decodeMbc2 : exec (decodeMbc2 a v) s = .next (s.toMbc (s.bus.mbc.controlMbc2 a v)) := by
  simp only [decodeMbc2, BankController.controlMbc2, extract_eq_ofNat_iff]
  split
  · rw [if_pos (show a.toNat ≤ 0x1FFF by omega)]
    cases a.getLsbD 8 <;> rfl
  split
  · rw [if_neg (show ¬ a.toNat ≤ 0x1FFF by omega), if_pos (show a.toNat ≤ 0x3FFF by omega)]
    cases a.getLsbD 8 <;> rfl
  · rw [if_neg (by omega), if_neg (by omega)]; rfl

/-- R109, column MBC3: R200, R221 to R223. -/
theorem exec_decodeMbc3 : exec (decodeMbc3 a v) s = .next (s.toMbc (s.bus.mbc.controlMbc3 a v)) := by
  simp only [decodeMbc3, BankController.controlMbc3, extract_eq_ofNat_iff]
  split
  · rw [if_pos (by omega)]; rfl
  split
  · rw [if_neg (by omega), if_pos (by omega)]; rfl
  split
  · rw [if_neg (by omega), if_neg (by omega), if_pos (by omega)]; rfl
  · rw [if_neg (by omega), if_neg (by omega), if_neg (by omega)]; rfl

/-- R109, column MBC5: R200, R231 to R234. -/
theorem exec_decodeMbc5 : exec (decodeMbc5 a v) s = .next (s.toMbc (s.bus.mbc.controlMbc5 a v)) := by
  simp only [decodeMbc5, BankController.controlMbc5, extract_eq_ofNat_iff, getLsbD_eq_bit, decide_eq_true_eq]
  split
  · rw [if_pos (by omega)]; rfl
  split
  · rw [if_neg (show ¬ a.toNat ≤ 0x1FFF by omega)]
    split
    · rw [if_neg (by omega), if_pos (by omega)]; rfl
    · rw [if_pos (by omega)]; rfl
  split
  · rw [if_neg (by omega), if_neg (by omega), if_neg (by omega), if_pos (by omega)]; rfl
  · rw [if_neg (by omega), if_neg (by omega), if_neg (by omega), if_neg (by omega)]; rfl

/-- R109, R181: the operation a control write decodes to is the variant's control write of the bank controller. -/
theorem exec_decodeControl :
    exec (decodeControl s.context a v) s = .next (s.toMbc (s.bus.mbc.control s.cfg.variant a v)) := by
  simp only [decodeControl, BankController.control, State.context]
  cases s.cfg.variant with
  | mbc1 => exact exec_decodeMbc1 s v h
  | mbc2 => exact exec_decodeMbc2 s v h
  | mbc3 => exact exec_decodeMbc3 s v h
  | mbc5 => exact exec_decodeMbc5 s v h

end

/-- R61, R180: the operation a write decodes to, in the context of the moment, is `memWrite`. -/
theorem exec_decodeWrite (s : State) (a : Word) (v : Byte) :
    exec (decodeWrite s.context a v) s = .next (s.toBus (memWrite s.cfg s.bus a v)) := by
  have ha : a.toNat < 65536 := a.isLt
  simp only [decodeWrite, extract_eq_ofNat_iff, getLsbD_eq_bit, decide_eq_false_iff_not,
    BitVec.toNat_eq (y := 0xFFFF#16), BitVec.toNat_ofNat]
  split
  · rw [exec_decodeControl s v (by omega), memWrite_control _ _ v (by omega)]; rfl
  split
  · rw [memWrite_gap8 _ _ v (by omega) (by omega)]; rfl
  split
  · rw [memWrite_xram _ _ v (by omega) (by omega)]; rfl
  split
  · rw [memWrite_wram _ _ v (by omega) (by omega)]; rfl
  split
  · rw [memWrite_ie _ _ v (by omega)]; rfl
  split
  · rw [memWrite_hram _ _ v (by omega) (by omega)]; rfl
  split
  · rw [memWrite_io _ _ v (by omega) (by omega)]; rfl
  split
  · rw [memWrite_gapfe _ _ v (by omega) (by omega)]; rfl
  · rw [memWrite_echo _ _ v (by omega) (by omega)]; rfl

/-! ### The register port: F's low nibble stays 0 (R23, D4) -/

theorem RegisterFile.wf_iff {g : RegisterFile} : g.wf = true ↔ g.f &&& 0x0F#8 = 0#8 := by
  rw [RegisterFile.wf, beq_iff_eq]

theorem RegisterFile.wf_of_f_eq {g g' : RegisterFile} (hf : g'.f = g.f) (h : g.wf = true) : g'.wf = true := by
  rw [wf_iff, hf, ← wf_iff]
  exact h

theorem RegisterFile.wf_of_f_eq_flagByte {g : RegisterFile} {v : Byte} (hf : g.f = flagByte v) : g.wf = true := by
  rw [wf_iff, hf]
  exact flagByte_low v

theorem RegisterFile.write8_wf {g : RegisterFile} (r : Reg8) (v : Byte) (h : g.wf = true) :
    (g.write8 r v).wf = true := by
  cases r with
  | f => exact wf_of_f_eq_flagByte rfl
  | a | b | c | d | e | h | l => exact h

theorem RegisterFile.write16_wf {g : RegisterFile} (p : View16) (v : Word) (h : g.wf = true) :
    (g.write16 p v).wf = true := by
  cases p with
  | af => exact wf_of_f_eq_flagByte rfl
  | bc | de | hl | sp | pc => exact h

theorem flagsTest_zero (m : Byte) : flagsTest 0x00#8 m = false := by
  rw [flagsTest, BitVec.zero_and]
  rfl

theorem flagsPut_eq_flagByte (f m : Byte) (b : Bool) :
    flagsPut f m b = flagByte (if b then f ||| m else f &&& ~~~m) := by
  cases b <;> rfl

/-- R144, R146: a register operation writes RegisterFile alone, and leaves F's low nibble 0. -/
theorem exec_regOp {i : Instr} {s : State} (hi : i.isRegOp = true) (hs : s.rf.wf = true) :
    ∃ g r, exec i s = .next (s.toRegs g r) ∧ g.wf = true := by
  cases i with
  | rd8 | rd16 | ftest | rdctl => exact ⟨s.rf, _, rfl, hs⟩
  | wr8 r v => exact ⟨_, _, rfl, RegisterFile.write8_wf r v hs⟩
  | wr16 p v => exact ⟨_, _, rfl, RegisterFile.write16_wf p v hs⟩
  | bump => exact ⟨_, _, rfl, RegisterFile.wf_of_f_eq s.rf.bumpPc_f hs⟩
  | inchl => exact ⟨_, _, rfl, RegisterFile.wf_of_f_eq s.rf.incHl_f hs⟩
  | dechl => exact ⟨_, _, rfl, RegisterFile.wf_of_f_eq s.rf.decHl_f hs⟩
  | fset | fclr => exact ⟨_, _, rfl, RegisterFile.wf_of_f_eq_flagByte rfl⟩
  | fput m b => exact ⟨_, _, rfl, RegisterFile.wf_of_f_eq_flagByte (flagsPut_eq_flagByte s.rf.f m b)⟩
  | wrctl c b => exact ⟨_, _, rfl, RegisterFile.wf_of_f_eq (s.rf.setLatch_f c b) hs⟩
  | _ => cases hi

/-! ### The invariant -/

theorem State.inv_iff {s : State} : s.Inv ↔ s.cfg.wf = true ∧ s.rf.wf = true ∧ s.bus.wf s.cfg = true := by
  simp only [State.Inv, State.inv, Bool.and_eq_true, and_assoc]

/-- An operation that some word spells in the context of the moment keeps the invariant. -/
theorem exec_inv {s t : State} {w : TWord} {i : Instr} (hd : decode s.context w = .ok i) (hs : s.Inv)
    (hx : exec i s = .next t) : t.Inv := by
  obtain ⟨hcfg, hrf, hbus⟩ := State.inv_iff.1 hs
  obtain ⟨a, rfl⟩ | ⟨a, v, rfl⟩ | hi := decode_ok_cases hd
  · rw [exec_decodeRead] at hx
    cases hx
    exact hs
  · rw [exec_decodeWrite] at hx
    cases hx
    exact State.inv_iff.2 ⟨hcfg, hrf, memWrite_wf a v hbus⟩
  · obtain ⟨g, r, hg, hwf⟩ := exec_regOp hi hrf
    rw [hg] at hx
    cases hx
    exact State.inv_iff.2 ⟨hcfg, hwf, hbus⟩

theorem AddressSpace.atReset_wf {cfg : Config} (h : cfg.wf = true) : (AddressSpace.atReset cfg).wf cfg = true := by
  simp only [Config.wf, Bool.and_eq_true] at h
  obtain ⟨⟨⟨-, hxram⟩, hwram⟩, hhram⟩ := h
  simp only [AddressSpace.wf, Bool.and_eq_true]
  exact ⟨⟨⟨atReset_legal cfg.variant, hxram⟩, hwram⟩, hhram⟩

/-- R280: the block starts inside the invariant, whatever its power-up table writes. -/
theorem resetOf_inv {cfg : Config} (h : cfg.wf = true) : (State.resetOf cfg).Inv :=
  State.inv_iff.2 ⟨h, RegisterFile.wf_iff.2 BitVec.zero_and, powerup_wf cfg.powerupWrites (AddressSpace.atReset_wf h)⟩

/-! ### The latches (R26) -/

/-- The registers with the three latches at other settings. -/
def RegisterFile.withLatches (g : RegisterFile) (halted stopped ime : Bool) : RegisterFile :=
  { g with halted := halted, stopped := stopped, ime := ime }

section
variable (g : RegisterFile) (halted stopped ime : Bool)

@[simp] theorem RegisterFile.withLatches_sp : (g.withLatches halted stopped ime).sp = g.sp := rfl
@[simp] theorem RegisterFile.withLatches_pc : (g.withLatches halted stopped ime).pc = g.pc := rfl

@[simp] theorem RegisterFile.withLatches_read8 (r : Reg8) : (g.withLatches halted stopped ime).read8 r = g.read8 r := by
  cases r <;> rfl

theorem RegisterFile.withLatches_read16 (p : View16) : (g.withLatches halted stopped ime).read16 p = g.read16 p := by
  cases p <;> rfl

theorem RegisterFile.withLatches_write8 (r : Reg8) (v : Byte) :
    (g.withLatches halted stopped ime).write8 r v = (g.write8 r v).withLatches halted stopped ime := by
  cases r <;> rfl

theorem RegisterFile.withLatches_write16 (p : View16) (v : Word) :
    (g.withLatches halted stopped ime).write16 p v = (g.write16 p v).withLatches halted stopped ime := by
  cases p <;> rfl

theorem RegisterFile.withLatches_incHl :
    (g.withLatches halted stopped ime).incHl = g.incHl.withLatches halted stopped ime := by
  by_cases h : g.l + 1#8 = 0x00#8 <;> simp [incHl, withLatches, h]

theorem RegisterFile.withLatches_decHl :
    (g.withLatches halted stopped ime).decHl = g.decHl.withLatches halted stopped ime := by
  by_cases h : g.l + 0xFF#8 = 0xFF#8 <;> simp [decHl, withLatches, h]

/-- Registers that are alike but for the latches stay so when one latch is set in both. -/
theorem RegisterFile.withLatches_setLatch (c : Latch) (b : Bool) :
    ∃ halted' stopped' ime', (g.withLatches halted stopped ime).setLatch c b =
      (g.setLatch c b).withLatches halted' stopped' ime' := by
  cases c <;> exact ⟨_, _, _, rfl⟩

end

/-- R26: an operation run under two settings of the latches ends in states that are alike but for the latches, and
answers alike unless it is `RDCTL`. -/
theorem exec_withLatches (i : Instr) (s : State) (halted stopped ime : Bool) : ∃ t t' : State,
    exec i s = .next t ∧ exec i { s with rf := s.rf.withLatches halted stopped ime } = .next t' ∧
    t'.bus = t.bus ∧ (∃ halted' stopped' ime', t'.rf = t.rf.withLatches halted' stopped' ime') ∧
    ((∀ c, i ≠ .rdctl c) → t'.reply = t.reply) := by
  cases i with
  | rdctl c => exact ⟨_, _, rfl, rfl, rfl, ⟨_, _, _, rfl⟩, fun h => absurd rfl (h c)⟩
  | rd8 r =>
    have hr := s.rf.withLatches_read8 halted stopped ime r
    exact ⟨_, _, rfl, rfl, rfl, ⟨_, _, _, rfl⟩, fun _ => congrArg (fun v => Reply.reg (zext16 v)) hr⟩
  | rd16 p =>
    have hp := s.rf.withLatches_read16 halted stopped ime p
    exact ⟨_, _, rfl, rfl, rfl, ⟨_, _, _, rfl⟩, fun _ => congrArg Reply.reg hp⟩
  | wr8 r v => exact ⟨_, _, rfl, rfl, rfl, ⟨_, _, _, s.rf.withLatches_write8 halted stopped ime r v⟩, fun _ => rfl⟩
  | wr16 p v => exact ⟨_, _, rfl, rfl, rfl, ⟨_, _, _, s.rf.withLatches_write16 halted stopped ime p v⟩, fun _ => rfl⟩
  | inchl => exact ⟨_, _, rfl, rfl, rfl, ⟨_, _, _, s.rf.withLatches_incHl halted stopped ime⟩, fun _ => rfl⟩
  | dechl => exact ⟨_, _, rfl, rfl, rfl, ⟨_, _, _, s.rf.withLatches_decHl halted stopped ime⟩, fun _ => rfl⟩
  | wrctl c b => exact ⟨_, _, rfl, rfl, rfl, s.rf.withLatches_setLatch halted stopped ime c b, fun _ => rfl⟩
  | _ => exact ⟨_, _, rfl, rfl, rfl, ⟨halted, stopped, ime, rfl⟩, fun _ => rfl⟩

section
variable (g : RegisterFile) (c : Latch)

theorem RegisterFile.write8_latch (r : Reg8) (v : Byte) : (g.write8 r v).latch c = g.latch c := by
  cases c <;> simp [latch]

theorem RegisterFile.write16_latch (p : View16) (v : Word) : (g.write16 p v).latch c = g.latch c := by
  cases c <;> simp [latch]

theorem RegisterFile.incHl_latch : g.incHl.latch c = g.latch c := by
  cases c <;> simp [latch]

theorem RegisterFile.decHl_latch : g.decHl.latch c = g.latch c := by
  cases c <;> simp [latch]

end

/-- R26, R142: only `WRCTL` of a latch changes it. -/
theorem exec_latch {i : Instr} {s t : State} {c : Latch} (h : exec i s = .next t) (hi : ∀ b, i ≠ .wrctl c b) :
    t.rf.latch c = s.rf.latch c := by
  cases i with
  | wr8 r v => cases h; exact s.rf.write8_latch c r v
  | wr16 p v => cases h; exact s.rf.write16_latch c p v
  | inchl => cases h; exact s.rf.incHl_latch c
  | dechl => cases h; exact s.rf.decHl_latch c
  | wrctl d b =>
    have hdc : d ≠ c := fun hdc => hi b (hdc ▸ rfl)
    cases h
    exact s.rf.latch_setLatch_other b hdc
  | _ => cases h; cases c <;> rfl

/-! ### The obligations -/

/-- Settles O59: a step performs an operation that some word spells in the context of the moment, so a control write
reaches the controller of its own variant only; each port's transactions keep the invariant. -/
theorem stepKeepsInvariant : Obligations.StepKeepsInvariant := by
  intro s t hs h
  obtain ⟨-, rfl⟩ | ⟨w, rest, i, -, hd, hx⟩ := step_next_cases h
  · exact hs
  · exact exec_inv (s := { s with pending := rest }) hd hs hx

/-- Settles O15: the two runs end alike but for the latches, and a latch is kept unless `WRCTL` names it. -/
theorem latchesGateNothing : Obligations.LatchesGateNothing := by
  intro i s halted stopped ime
  obtain ⟨t, t', ht, ht', hbus, ⟨halted', stopped', ime', hrf⟩, hreply⟩ := exec_withLatches i s halted stopped ime
  refine ⟨t, t', ht, ht', hbus, ?_, ?_, ?_, hreply, fun c => exec_latch ht⟩ <;> simp [hrf]

/-- Settles O4: the images of a well-formed configuration fit their buffers, the controller starts legal (D7), and the
power-up writes are bus writes like any other (D9, D10). -/
theorem resetMeetsInvariant : Obligations.ResetMeetsInvariant :=
  ⟨resetOf_inv rfl, fun _ => resetOf_inv⟩

/-- Settles O1: no power-up write reaches RegisterFile, so every register stands at its value of R40. -/
theorem resetHoldsPostBootRegisters : Obligations.ResetHoldsPostBootRegisters := by
  intro cfg
  refine ⟨fun r => ?_, fun p => ?_, ?_, _, rfl, rfl⟩
  · cases r <;> rfl
  · cases p with
    | af => exact (by decide : pairOf 0x01#8 0x00#8 = 0x0100#16)
    | bc => exact (by decide : pairOf 0x00#8 0x13#8 = 0x0013#16)
    | de => exact (by decide : pairOf 0x00#8 0xD8#8 = 0x00D8#16)
    | hl => exact (by decide : pairOf 0x01#8 0x4D#8 = 0x014D#16)
    | sp | pc => rfl
  · exact fun m _ => flagsTest_zero m

end Sys2Proof.Machine
end

section
/-! PROOFS. The address space (20_memory.md): one bus transaction is one `memRead` or one `memWrite`, and what a write
changes, leaves alone and does when it is repeated. The obligations O19 (every operation completes), O27 (reads have no
side effect), O34 (a write changes at most one region), O37 (a write leaves the other reads alone) and O48 (writes are
idempotent but for the MBC2 toggle). -/

namespace Sys2Proof.Machine

/-! ### One bus transaction is one step -/

theorem decode_rdWord (ctx : Context) (a : Word) : decode ctx (rdWord a) = .ok (decodeRead a) := by
  rw [decode, rdWord, splitWord_word_bus false a 0#8 (.inr rfl)]
  rfl

theorem decode_wrWord (ctx : Context) (a : Word) (v : Byte) : decode ctx (wrWord a v) = .ok (decodeWrite ctx a v) := by
  rw [decode, wrWord, splitWord_word_bus true a v (.inl rfl)]
  rfl

/-- R170: the step that performs `RD a`. -/
theorem step_rdWord (s : State) (a : Word) :
    step (s.present (rdWord a)) = .next (s.answer (.bus (memRead s.cfg s.bus a))) := by
  rw [step_present s _ (decode_rdWord s.context a), exec_decodeRead]

/-- R180: the step that performs `WR a, v`. -/
theorem step_wrWord (s : State) (a : Word) (v : Byte) :
    step (s.present (wrWord a v)) = .next (s.toBus (memWrite s.cfg s.bus a v)) := by
  rw [step_present s _ (decode_wrWord s.context a v), exec_decodeWrite]

theorem runWords_cons_of_step {s t : State} {w : TWord} (rest : List TWord) (h : step (s.present w) = .next t) :
    runWords (w :: rest) s = runWords rest t := by
  rw [runWords, transact, h]

/-- R62: a run of reads leaves nothing behind but the last result. -/
theorem runWords_rdWords (addrs : List Word) (s : State) :
    ∃ r, runWords (addrs.map rdWord) s = .next (s.answer r) := by
  induction addrs generalizing s with
  | nil => exact ⟨s.reply, rfl⟩
  | cons a rest ih =>
    obtain ⟨r, hr⟩ := ih (s.answer (.bus (memRead s.cfg s.bus a)))
    exact ⟨r, (runWords_cons_of_step _ (step_rdWord s a)).trans hr⟩

/-! ### The address ranges (R61) -/

/-- The ranges that a bus write tells apart: control, fallback, external RAM, work RAM with its mirror, scratch RAM and
the interrupt-enable byte. -/
theorem write_range_cases (a : Word) :
    a.toNat ≤ 0x7FFF ∨ ((0x8000 ≤ a.toNat ∧ a.toNat ≤ 0x9FFF) ∨ (0xFE00 ≤ a.toNat ∧ a.toNat ≤ 0xFF7F)) ∨
      (0xA000 ≤ a.toNat ∧ a.toNat ≤ 0xBFFF) ∨ (0xC000 ≤ a.toNat ∧ a.toNat ≤ 0xFDFF) ∨
      (0xFF80 ≤ a.toNat ∧ a.toNat ≤ 0xFFFE) ∨ 0xFFFF ≤ a.toNat := by
  omega

section
variable (cfg : Config) (sp : AddressSpace) {a : Word}

/-- R187: the fallback ranges. -/
theorem memWrite_fallback (v : Byte)
    (h : (0x8000 ≤ a.toNat ∧ a.toNat ≤ 0x9FFF) ∨ (0xFE00 ≤ a.toNat ∧ a.toNat ≤ 0xFF7F)) :
    memWrite cfg sp a v = sp := by
  obtain ⟨h, h'⟩ | ⟨h, h'⟩ := h
  · exact memWrite_gap8 cfg sp v h h'
  · obtain h'' | h'' := Nat.lt_or_ge a.toNat 0xFF00
    · exact memWrite_gapfe cfg sp v h (by omega)
    · exact memWrite_io cfg sp v h'' h'

/-- R183, R184: work RAM and its mirror. -/
theorem memWrite_workRam (v : Byte) (h : 0xC000 ≤ a.toNat) (h' : a.toNat ≤ 0xFDFF) :
    memWrite cfg sp a v = sp.writeWram a v := by
  obtain h'' | h'' := Nat.lt_or_ge a.toNat 0xE000
  · exact memWrite_wram cfg sp v h (by omega)
  · exact memWrite_echo cfg sp v h'' h'

/-- R174, R175: work RAM and its mirror. -/
theorem memRead_workRam (h : 0xC000 ≤ a.toNat) (h' : a.toNat ≤ 0xFDFF) :
    memRead cfg sp a = sp.readWram a := by
  obtain h'' | h'' := Nat.lt_or_ge a.toNat 0xE000
  · exact memRead_wram cfg sp h (by omega)
  · exact memRead_echo cfg sp h'' h'

/-- R178: the fallback ranges. -/
theorem memRead_fallback
    (h : (0x8000 ≤ a.toNat ∧ a.toNat ≤ 0x9FFF) ∨ (0xFE00 ≤ a.toNat ∧ a.toNat ≤ 0xFF7F)) :
    memRead cfg sp a = openBus := by
  obtain ⟨h, h'⟩ | ⟨h, h'⟩ := h
  · exact memRead_gap8 cfg sp h h'
  · obtain h'' | h'' := Nat.lt_or_ge a.toNat 0xFF00
    · exact memRead_gapfe cfg sp h (by omega)
    · exact memRead_io cfg sp h'' h'

end

/-! ### External RAM writes (R182) -/

section
variable {cfg : Config} {sp : AddressSpace} {a : Word} (v : Byte)

theorem AddressSpace.writeXram_of_enabled (h : sp.mbc.ramEnabled = true) : sp.writeXram cfg a v =
    { sp with xram := Memory.store cfg.xramSize sp.xram (xramIndex sp.mbc a) (xramValue cfg.variant v) } := by
  rw [writeXram, if_pos h]

theorem AddressSpace.writeXram_of_disabled (h : sp.mbc.ramEnabled = false) : sp.writeXram cfg a v = sp := by
  rw [writeXram, h]
  rfl

/-- D11: an index beyond the buffer is discarded, not wrapped. -/
theorem AddressSpace.writeXram_discarded (h : sp.mbc.ramEnabled = false ∨ cfg.xramSize ≤ xramIndex sp.mbc a) :
    sp.writeXram cfg a v = sp := by
  cases he : sp.mbc.ramEnabled with
  | false => exact writeXram_of_disabled v he
  | true =>
    have hlen : cfg.xramSize ≤ xramIndex sp.mbc a := h.resolve_left (by simp [he])
    rw [writeXram_of_enabled v he, Memory.store_outside _ (Nat.not_lt.2 hlen)]

/-- At most the cell the address translates to changes. -/
theorem AddressSpace.writeXram_frame : ∃ x, sp.writeXram cfg a v = { sp with xram := x } ∧
    ∀ j, j ≠ xramIndex sp.mbc a → Memory.read x j = Memory.read sp.xram j := by
  cases he : sp.mbc.ramEnabled with
  | false => exact ⟨sp.xram, writeXram_of_disabled v he, fun _ _ => rfl⟩
  | true => exact ⟨_, writeXram_of_enabled v he, fun j hj => Memory.read_store_other _ hj.symm⟩

end

/-! ### A control write changes at most one register (R243) -/

/-- The controller becomes `m'` from `m` by a change of at most one register, and of at most one field of `rom_bank`
where the variant writes it by fields: bits 4:0 and above under MBC1, bits 7:0 and 8 under MBC5. -/
def BankController.OneRegister (variant : Variant) (m m' : BankController) : Prop :=
  (∃ r, m' = { m with romBank := r } ∧
    (variant = .mbc1 → r.toNat % 32 = m.romBank.toNat % 32 ∨ r.toNat / 32 = m.romBank.toNat / 32) ∧
    (variant = .mbc5 → r.toNat % 256 = m.romBank.toNat % 256 ∨ r.toNat / 256 = m.romBank.toNat / 256)) ∨
  (∃ r, m' = { m with ramBank := r }) ∨ (∃ e, m' = { m with ramEnabled := e }) ∨
  ∃ k, m' = { m with bankMode := k }

section
variable {variant : Variant} (m : BankController) (a : Word) (v : Byte)

theorem BankController.OneRegister.ramBank (r : BitVec 4) : OneRegister variant m { m with ramBank := r } :=
  .inr (.inl ⟨r, rfl⟩)

theorem BankController.OneRegister.ramEnabled (e : Bool) : OneRegister variant m { m with ramEnabled := e } :=
  .inr (.inr (.inl ⟨e, rfl⟩))

theorem BankController.OneRegister.bankMode (k : BankMode) : OneRegister variant m { m with bankMode := k } :=
  .inr (.inr (.inr ⟨k, rfl⟩))

theorem BankController.OneRegister.refl : OneRegister variant m m :=
  .ramEnabled m m.ramEnabled

/-- R200 to R204. The low write keeps bits 6:5 and clears bits 8:7, which the seven bits of MBC1 do not have (R242). -/
theorem BankController.controlMbc1_oneRegister (h : m.romBank.toNat ≤ 0x7F) :
    OneRegister .mbc1 m (m.controlMbc1 a v) := by
  unfold controlMbc1
  split_ifs
  · exact .ramEnabled m _
  · obtain ⟨hr, -⟩ := mbc1RomLow_spec m v
    have hdiv : (m.mbc1RomLow v).romBank.toNat / 32 = m.romBank.toNat / 32 := by split at hr <;> omega
    exact .inl ⟨_, rfl, fun _ => .inr hdiv, nofun⟩
  · cases m.bankMode with
    | rom =>
      obtain ⟨hr, -⟩ := mbc1RomHigh_spec m v
      have hmod : (m.mbc1RomHigh v).romBank.toNat % 32 = m.romBank.toNat % 32 := by omega
      exact .inl ⟨_, rfl, fun _ => .inl hmod, nofun⟩
    | ram => exact .ramBank m _
  · exact .bankMode m _

/-- R210 to R214. -/
theorem BankController.controlMbc2_oneRegister : OneRegister .mbc2 m (m.controlMbc2 a v) := by
  unfold controlMbc2
  split_ifs
  · exact .refl m
  · exact .ramEnabled m _
  · exact .inl ⟨_, rfl, nofun, nofun⟩
  · exact .refl m
  · exact .refl m

/-- R200, R221 to R223. -/
theorem BankController.controlMbc3_oneRegister : OneRegister .mbc3 m (m.controlMbc3 a v) := by
  unfold controlMbc3
  split_ifs
  · exact .ramEnabled m _
  · exact .inl ⟨_, rfl, nofun, nofun⟩
  · exact .ramBank m _
  · exact .refl m

/-- R200, R231 to R234. -/
theorem BankController.controlMbc5_oneRegister : OneRegister .mbc5 m (m.controlMbc5 a v) := by
  unfold controlMbc5
  split_ifs
  · exact .ramEnabled m _
  · obtain ⟨hr, -⟩ := mbc5RomLow_spec m v
    have hdiv : (m.mbc5RomLow v).romBank.toNat / 256 = m.romBank.toNat / 256 := by omega
    exact .inl ⟨_, rfl, nofun, fun _ => .inr hdiv⟩
  · obtain ⟨hr, -⟩ := mbc5RomHigh_spec m v
    have hmod : (m.mbc5RomHigh v).romBank.toNat % 256 = m.romBank.toNat % 256 := by omega
    exact .inl ⟨_, rfl, nofun, fun _ => .inl hmod⟩
  · exact .ramBank m _
  · exact .refl m

theorem BankController.romBank_le_of_legal_mbc1 {m : BankController} (h : m.legal .mbc1 = true) :
    m.romBank.toNat ≤ 0x7F := by
  simp only [legal, Bool.and_eq_true, decide_eq_true_eq] at h
  exact h.1.1

theorem BankController.control_oneRegister (h : m.legal variant = true) :
    OneRegister variant m (m.control variant a v) := by
  cases variant with
  | mbc1 => exact m.controlMbc1_oneRegister a v (romBank_le_of_legal_mbc1 h)
  | mbc2 => exact m.controlMbc2_oneRegister a v
  | mbc3 => exact m.controlMbc3_oneRegister a v
  | mbc5 => exact m.controlMbc5_oneRegister a v

end

/-! ### What a read depends on -/

/-- A read sees the controller, and of the buffers only the cell its address translates to. -/
theorem memRead_congr (cfg : Config) {sp sp' : AddressSpace} {b : Word} (hmbc : sp'.mbc = sp.mbc)
    (hx : 0xA000 ≤ b.toNat → b.toNat ≤ 0xBFFF →
      Memory.read sp'.xram (xramIndex sp.mbc b) = Memory.read sp.xram (xramIndex sp.mbc b))
    (hw : 0xC000 ≤ b.toNat → b.toNat ≤ 0xFDFF →
      Memory.read sp'.wram (wramIndex b) = Memory.read sp.wram (wramIndex b))
    (hh : 0xFF80 ≤ b.toNat → b.toNat ≤ 0xFFFE →
      Memory.read sp'.hram (hramIndex b) = Memory.read sp.hram (hramIndex b))
    (hie : 0xFFFF ≤ b.toNat → sp'.ie = sp.ie) : memRead cfg sp' b = memRead cfg sp b := by
  obtain h | h | ⟨h, h'⟩ | ⟨h, h'⟩ | ⟨h, h'⟩ | h := write_range_cases b
  · obtain h0 | h0 := Nat.lt_or_ge b.toNat 0x4000
    · rw [memRead_rom0 _ _ (by omega), memRead_rom0 _ _ (by omega)]
    · rw [memRead_romx _ _ h0 h, memRead_romx _ _ h0 h, hmbc]
  · rw [memRead_fallback _ _ h, memRead_fallback _ _ h]
  · rw [memRead_xram _ _ h h', memRead_xram _ _ h h', AddressSpace.readXram, AddressSpace.readXram, hmbc, hx h h']
  · rw [memRead_workRam _ _ h h', memRead_workRam _ _ h h']
    exact hw h h'
  · rw [memRead_hram _ _ h h', memRead_hram _ _ h h']
    exact hh h h'
  · rw [memRead_ie _ _ h, memRead_ie _ _ h]
    exact hie h

/-- The addresses of the two work RAM windows that translate to one cell: 0x2000 apart (R73). -/
def Mirrors (a b : Word) : Prop :=
  0xC000 ≤ a.toNat ∧ a.toNat ≤ 0xFDFF ∧ 0xC000 ≤ b.toNat ∧ b.toNat ≤ 0xFDFF ∧
    (b.toNat = a.toNat + 0x2000 ∨ a.toNat = b.toNat + 0x2000)

section
variable {a b : Word} (hne : b ≠ a)
include hne

/-- D11: an index does not wrap, so no two addresses of the window share a cell. -/
theorem xramIndex_ne (m : BankController) (ha : 0xA000 ≤ a.toNat) (hb : 0xA000 ≤ b.toNat) :
    xramIndex m a ≠ xramIndex m b := by
  rw [Ne, BitVec.toNat_eq] at hne
  rw [xramIndex_eq m ha, xramIndex_eq m hb]
  omega

theorem hramIndex_ne (ha : 0xFF80 ≤ a.toNat) (hb : 0xFF80 ≤ b.toNat) : hramIndex a ≠ hramIndex b := by
  rw [Ne, BitVec.toNat_eq] at hne
  rw [hramIndex_eq ha, hramIndex_eq hb]
  omega

theorem wramIndex_ne (hab : ¬ Mirrors a b) (ha : 0xC000 ≤ a.toNat) (ha' : a.toNat ≤ 0xFDFF)
    (hb : 0xC000 ≤ b.toNat) (hb' : b.toNat ≤ 0xFDFF) : wramIndex a ≠ wramIndex b := by
  have hshift : ¬ (b.toNat = a.toNat + 0x2000 ∨ a.toNat = b.toNat + 0x2000) :=
    fun h => hab ⟨ha, ha', hb, hb', h⟩
  rw [Ne, BitVec.toNat_eq] at hne
  rw [wramIndex_spec ha, wramIndex_spec hb]
  split <;> split <;> omega

/-- R78, R189: a write outside the control range is seen at its own address and at its mirror only. -/
theorem memRead_memWrite_other (cfg : Config) (sp : AddressSpace) (v : Byte) (ha : 0x8000 ≤ a.toNat)
    (hab : ¬ Mirrors a b) : memRead cfg (memWrite cfg sp a v) b = memRead cfg sp b := by
  obtain h | h | ⟨h, h'⟩ | ⟨h, h'⟩ | ⟨h, h'⟩ | h := write_range_cases a
  · omega
  · rw [memWrite_fallback cfg sp v h]
  · rw [memWrite_xram cfg sp v h h']
    obtain ⟨x, hx, hframe⟩ := AddressSpace.writeXram_frame (cfg := cfg) (sp := sp) (a := a) v
    rw [hx]
    exact memRead_congr cfg rfl (fun hb _ => hframe _ (xramIndex_ne hne sp.mbc h hb).symm)
      (fun _ _ => rfl) (fun _ _ => rfl) (fun _ => rfl)
  · rw [memWrite_workRam cfg sp v h h']
    exact memRead_congr cfg rfl (fun _ _ => rfl)
      (fun hb hb' => Memory.read_store_other v (wramIndex_ne hne hab h h' hb hb')) (fun _ _ => rfl) (fun _ => rfl)
  · rw [memWrite_hram cfg sp v h h']
    exact memRead_congr cfg rfl (fun _ _ => rfl) (fun _ _ => rfl)
      (fun hb _ => Memory.read_store_other v (hramIndex_ne hne h hb)) (fun _ => rfl)
  · rw [memWrite_ie cfg sp v h]
    rw [Ne, BitVec.toNat_eq] at hne
    exact memRead_congr cfg rfl (fun _ _ => rfl) (fun _ _ => rfl) (fun _ _ => rfl) (fun hb => by omega)

end

/-! ### Writing the same again -/

/-- Storing what a canonical buffer reads changes nothing. -/
theorem Memory.write_eq_self {m : Memory} {lo i : Nat} {v : Byte} (hm : Memory.wfFrom lo m = true)
    (hr : Memory.read m i = v) : Memory.write m i v = m := by
  induction m generalizing lo with
  | nil =>
    rw [Memory.read_nil] at hr
    rw [Memory.write, if_pos hr.symm]
  | cons c rest ih =>
    obtain ⟨a, b⟩ := c
    simp only [Memory.wfFrom, Bool.and_eq_true, bne_iff_ne] at hm
    obtain ⟨⟨-, hb⟩, hrest⟩ := hm
    obtain h | rfl | h := Nat.lt_trichotomy i a
    · have hv : Memory.read ((a, b) :: rest) i = Memory.unlisted :=
        Memory.read_of_lt (lo := a) (by simp [Memory.wfFrom, hb, hrest]) h
      rw [Memory.write, if_pos h, if_pos (hr.symm.trans hv)]
    · rw [Memory.read, if_pos rfl] at hr
      rw [Memory.write, if_neg (Nat.lt_irrefl _), if_pos rfl, ← hr, if_neg hb]
    · rw [Memory.read, if_neg (Nat.ne_of_lt h)] at hr
      rw [Memory.write, if_neg (Nat.lt_asymm h), if_neg (Nat.ne_of_gt h), ih hrest hr]

theorem Memory.store_eq_self {m : Memory} {len i : Nat} {v : Byte} (hm : Memory.fits len m = true)
    (hr : Memory.read m i = v) : Memory.store len m i v = m := by
  simp only [Memory.fits, Memory.wf, Bool.and_eq_true] at hm
  rw [Memory.store, Memory.write_eq_self hm.1 hr, ite_self]

theorem Memory.store_store_same {m : Memory} {len : Nat} (i : Nat) (v : Byte) (hm : Memory.fits len m = true) :
    Memory.store len (Memory.store len m i v) i v = Memory.store len m i v := by
  by_cases hi : i < len
  · exact Memory.store_eq_self (Memory.fits_store i v hm) (Memory.read_store_same v hm hi)
  · rw [Memory.store_outside v hi, Memory.store_outside v hi]

/-- Writing a field of a register twice is writing it once. -/
theorem maskedWrite_maskedWrite {w : Nat} (r keep field : BitVec w) :
    ((r &&& keep ||| field) &&& keep) ||| field = r &&& keep ||| field := by
  apply BitVec.eq_of_getLsbD_eq
  intro i _
  simp only [BitVec.getLsbD_or, BitVec.getLsbD_and]
  cases r.getLsbD i <;> cases keep.getLsbD i <;> cases field.getLsbD i <;> rfl

section
variable (m : BankController) (a : Word) (v : Byte)

theorem BankController.mbc1RomLow_mbc1RomLow : (m.mbc1RomLow v).mbc1RomLow v = m.mbc1RomLow v :=
  congrArg (fun r => { m with romBank := r }) (maskedWrite_maskedWrite m.romBank _ _)

theorem BankController.mbc1RomHigh_mbc1RomHigh : (m.mbc1RomHigh v).mbc1RomHigh v = m.mbc1RomHigh v :=
  congrArg (fun r => { m with romBank := r }) (maskedWrite_maskedWrite m.romBank _ _)

theorem BankController.mbc5RomLow_mbc5RomLow : (m.mbc5RomLow v).mbc5RomLow v = m.mbc5RomLow v :=
  congrArg (fun r => { m with romBank := r }) (maskedWrite_maskedWrite m.romBank _ _)

theorem BankController.mbc5RomHigh_mbc5RomHigh : (m.mbc5RomHigh v).mbc5RomHigh v = m.mbc5RomHigh v :=
  congrArg (fun r => { m with romBank := r }) (maskedWrite_maskedWrite m.romBank _ _)

theorem BankController.ramToggle_ramToggle : m.ramToggle.ramToggle = m :=
  congrArg (fun e => { m with ramEnabled := e }) (Bool.not_not m.ramEnabled)

/-- The write of bits 6:5 or of the RAM bank keeps the mode, so the second write means what the first did. -/
theorem BankController.controlMbc1_controlMbc1 : (m.controlMbc1 a v).controlMbc1 a v = m.controlMbc1 a v := by
  unfold controlMbc1
  split_ifs
  · rfl
  · exact m.mbc1RomLow_mbc1RomLow v
  · cases hmode : m.bankMode with
    | rom => simp only [mbc1RomHigh_bankMode, hmode, mbc1RomHigh_mbc1RomHigh]
    | ram => simp only [ramBankTwoBits_bankMode, hmode]; rfl
  · rfl

/-- R68, R210: all but the toggle, which addresses with bit 8 clear below 0x2000 reach. -/
theorem BankController.controlMbc2_controlMbc2 (h : ¬ (a.toNat ≤ 0x1FFF ∧ a.toNat / 256 % 2 = 0)) :
    (m.controlMbc2 a v).controlMbc2 a v = m.controlMbc2 a v := by
  unfold controlMbc2
  split_ifs with hlow hbit
  · rfl
  · rw [getLsbD_eq_bit, decide_eq_true_eq, Nat.shiftRight_eq_div_pow] at hbit
    exact absurd ⟨hlow, by omega⟩ h
  · rfl
  · rfl
  · rfl

theorem BankController.controlMbc3_controlMbc3 : (m.controlMbc3 a v).controlMbc3 a v = m.controlMbc3 a v := by
  unfold controlMbc3
  split_ifs <;> rfl

theorem BankController.controlMbc5_controlMbc5 : (m.controlMbc5 a v).controlMbc5 a v = m.controlMbc5 a v := by
  unfold controlMbc5
  split_ifs
  · rfl
  · exact m.mbc5RomLow_mbc5RomLow v
  · exact m.mbc5RomHigh_mbc5RomHigh v
  · rfl
  · rfl

theorem BankController.control_control {variant : Variant}
    (h : ¬ (variant = .mbc2 ∧ a.toNat ≤ 0x1FFF ∧ a.toNat / 256 % 2 = 0)) :
    (m.control variant a v).control variant a v = m.control variant a v := by
  cases variant with
  | mbc1 => exact m.controlMbc1_controlMbc1 a v
  | mbc2 => exact m.controlMbc2_controlMbc2 a v (fun h' => h ⟨rfl, h'⟩)
  | mbc3 => exact m.controlMbc3_controlMbc3 a v
  | mbc5 => exact m.controlMbc5_controlMbc5 a v

end

theorem AddressSpace.wf_iff {cfg : Config} {sp : AddressSpace} : sp.wf cfg = true ↔
    sp.mbc.legal cfg.variant = true ∧ Memory.fits cfg.xramSize sp.xram = true ∧
      Memory.fits wramSize sp.wram = true ∧ Memory.fits hramSize sp.hram = true := by
  simp only [wf, Bool.and_eq_true, and_assoc]

section
variable {cfg : Config} {sp : AddressSpace} (a : Word) (v : Byte)

theorem AddressSpace.writeXram_writeXram (h : Memory.fits cfg.xramSize sp.xram = true) :
    (sp.writeXram cfg a v).writeXram cfg a v = sp.writeXram cfg a v := by
  cases he : sp.mbc.ramEnabled with
  | false => rw [writeXram_of_disabled v he, writeXram_of_disabled v he]
  | true =>
    have he' : (sp.writeXram cfg a v).mbc.ramEnabled = true := by rw [writeXram_mbc, he]
    rw [writeXram_of_enabled v he', writeXram_of_enabled v he]
    exact congrArg (fun x => { sp with xram := x }) (Memory.store_store_same _ _ h)

theorem AddressSpace.writeWram_writeWram (h : Memory.fits wramSize sp.wram = true) :
    (sp.writeWram a v).writeWram a v = sp.writeWram a v :=
  congrArg (fun w => { sp with wram := w }) (Memory.store_store_same _ _ h)

theorem AddressSpace.writeHram_writeHram (h : Memory.fits hramSize sp.hram = true) :
    (sp.writeHram a v).writeHram a v = sp.writeHram a v :=
  congrArg (fun x => { sp with hram := x }) (Memory.store_store_same _ _ h)

/-- R68: a bus write that is not the MBC2 toggle does nothing the second time. -/
theorem memWrite_memWrite (hsp : sp.wf cfg = true)
    (ht : ¬ (cfg.variant = .mbc2 ∧ a.toNat ≤ 0x1FFF ∧ a.toNat / 256 % 2 = 0)) :
    memWrite cfg (memWrite cfg sp a v) a v = memWrite cfg sp a v := by
  obtain ⟨-, hxram, hwram, hhram⟩ := AddressSpace.wf_iff.1 hsp
  obtain h | h | ⟨h, h'⟩ | ⟨h, h'⟩ | ⟨h, h'⟩ | h := write_range_cases a
  · simp only [memWrite_control _ _ v h, BankController.control_control _ _ _ ht]
  · simp only [memWrite_fallback _ _ v h]
  · simp only [memWrite_xram _ _ v h h', AddressSpace.writeXram_writeXram a v hxram]
  · simp only [memWrite_workRam _ _ v h h', AddressSpace.writeWram_writeWram a v hwram]
  · simp only [memWrite_hram _ _ v h h', AddressSpace.writeHram_writeHram a v hhram]
  · simp only [memWrite_ie _ _ v h]
    rfl

end

/-! ### The obligations -/

/-- Settles O27: a read answers `memRead` of a state that no read changes. -/
theorem readsHaveNoSideEffect : Obligations.ReadsHaveNoSideEffect := by
  intro a others s
  obtain ⟨r, hr⟩ := runWords_rdWords others s
  exact ⟨_, step_rdWord s a, _, hr, rfl, rfl, rfl, step_rdWord (s.answer r) a⟩

/-- Settles O34: `memWrite` range by range; of the invariant only the seven bits of MBC1's `rom_bank` are used. -/
theorem writeChangesAtMostOneRegion : Obligations.WriteChangesAtMostOneRegion := by
  intro a v s hs
  obtain ⟨-, -, hbus⟩ := State.inv_iff.1 hs
  obtain ⟨hlegal, -⟩ := AddressSpace.wf_iff.1 hbus
  refine ⟨_, step_wrWord s a v, fun h => ?_, fun h h' => ?_, fun h h' => ?_, fun h h' => ?_, fun h h' => ?_,
    fun h h' => ?_, fun h => ?_⟩
  · exact ⟨_, memWrite_control _ _ v h, s.bus.mbc.control_oneRegister a v hlegal⟩
  · exact memWrite_fallback _ _ v (.inl ⟨h, h'⟩)
  · rw [memWrite_xram _ _ v h h']
    exact ⟨AddressSpace.writeXram_frame v, AddressSpace.writeXram_discarded v⟩
  · exact ⟨_, memWrite_workRam _ _ v h h', fun j hj => Memory.read_store_other v hj.symm⟩
  · exact memWrite_fallback _ _ v (.inr ⟨h, h'⟩)
  · exact ⟨_, memWrite_hram _ _ v h h', fun j hj => Memory.read_store_other v hj.symm⟩
  · exact memWrite_ie _ _ v (by simp [h])

/-- Settles O37: a write changes the cell its address translates to, and only the mirror translates to the same. -/
theorem writeLeavesOtherReadsAlone : Obligations.WriteLeavesOtherReadsAlone := by
  intro a b v s t ha hne hab ht
  rw [step_wrWord] at ht
  cases ht
  exact memRead_memWrite_other hne s.cfg s.bus v ha hab

/-- Settles O48: every register, field and cell takes a value that the second write finds there; the toggle negates. -/
theorem writesAreIdempotentButToggle : Obligations.WritesAreIdempotentButToggle := by
  refine ⟨fun a v s t hs htog ht => ?_, fun a b v w s t ht => ?_⟩
  · obtain ⟨-, -, hbus⟩ := State.inv_iff.1 hs
    rw [step_wrWord] at ht
    cases ht
    rw [step_wrWord]
    exact congrArg (fun sp => Host.Outcome.next (s.toBus sp)) (memWrite_memWrite a v hbus htog)
  · cases ht
    exact congrArg (fun m => Host.Outcome.next (s.toMbc m)) s.bus.mbc.ramToggle_ramToggle

/-- Settles O19: each operation's meaning is one of three updates, each a next state. -/
theorem everyOperationCompletes : Obligations.EveryOperationCompletes := by
  refine ⟨fun i s => ?_, fun s a => ⟨_, step_rdWord s a⟩, fun s a v => ⟨_, step_wrWord s a v⟩⟩
  obtain ⟨t, ht, -⟩ := exec_completes i s
  exact ⟨t, ht⟩

end Sys2Proof.Machine
end

section
/-! PROOFS. What a bus write asks for (30_encoding.md sections 3 and 5): the obligations O32 (the write dispatch follows
the table) and O33 (on the bus nothing is illegal). -/

namespace Sys2Proof

/-! ### What a bus write decodes to, in numbers -/

/-- R109, R180: a bus write is the operation of the context that carries its address and value. -/
theorem decodeWrite_of_port {ctx : Context} {i : Instr} {a : Word} {v : Byte} (hport : i.port = .bus true a v)
    (hwf : i.wf = true) (hctx : i.inContext ctx = true) : decodeWrite ctx a v = i := by
  have h := decodePort_port i ctx hwf hctx
  rw [hport] at h
  exact Except.ok.inj h

theorem inWindow_iff {lo hi : Nat} {a : Word} : inWindow lo hi a = true ↔ lo ≤ a.toNat ∧ a.toNat ≤ hi := by
  simp only [inWindow, Bool.and_eq_true, decide_eq_true_eq]

/-- R110: address bit 8 set. -/
theorem bit_eight_set_iff {a : Word} : a.getLsbD 8 = true ↔ a.toNat / 256 % 2 = 1 := by
  rw [getLsbD_eq_bit, decide_eq_true_eq, Nat.shiftRight_eq_div_pow]

/-- R110: address bit 8 clear. -/
theorem bit_eight_clear_iff {a : Word} : (!a.getLsbD 8) = true ↔ a.toNat / 256 % 2 = 0 := by
  rw [Bool.not_eq_true', ← Bool.not_eq_true, bit_eight_set_iff]
  omega

section
variable (mode : BankMode) {a : Word} (v : Byte)

/-- R109, column MBC1. -/
theorem decodeWrite_mbc1 (h : a.toNat ≤ 0x7FFF) : decodeWrite ⟨.mbc1, mode⟩ a v =
    if a.toNat ≤ 0x1FFF then .wrMbc1Ramen a v
    else if a.toNat ≤ 0x3FFF then .wrMbc1Romb a v
    else if a.toNat ≤ 0x5FFF then (match mode with
      | .rom => .wrMbc1Rombhi a v
      | .ram => .wrMbc1Ramb a v)
    else .wrMbc1Mode a v := by
  cases mode
  all_goals
    split_ifs
    all_goals exact decodeWrite_of_port rfl (inWindow_iff.2 (by omega)) rfl

/-- R109, column MBC2; R110: address bit 8 tells an operation from the no-op beside it. -/
theorem decodeWrite_mbc2 (h : a.toNat ≤ 0x7FFF) : decodeWrite ⟨.mbc2, mode⟩ a v =
    if a.toNat ≤ 0x1FFF then
      (if a.toNat / 256 % 2 = 0 then .wrMbc2Ramtog a v else .wrMbc2Nop0 a v)
    else if a.toNat ≤ 0x3FFF then
      (if a.toNat / 256 % 2 = 1 then .wrMbc2Romb a v else .wrMbc2Nop2 a v)
    else .wrMbc2Nop4 a v := by
  have hwf {lo hi : Nat} {bit : Bool} (hlo : lo ≤ a.toNat) (hhi : a.toNat ≤ hi) (hbit : bit = true) :
      (inWindow lo hi a && bit) = true :=
    Bool.and_eq_true_iff.2 ⟨inWindow_iff.2 ⟨hlo, hhi⟩, hbit⟩
  split_ifs
  · exact decodeWrite_of_port rfl (hwf (by omega) (by omega) (bit_eight_clear_iff.2 (by omega))) rfl
  · exact decodeWrite_of_port rfl (hwf (by omega) (by omega) (bit_eight_set_iff.2 (by omega))) rfl
  · exact decodeWrite_of_port rfl (hwf (by omega) (by omega) (bit_eight_set_iff.2 (by omega))) rfl
  · exact decodeWrite_of_port rfl (hwf (by omega) (by omega) (bit_eight_clear_iff.2 (by omega))) rfl
  · exact decodeWrite_of_port rfl (inWindow_iff.2 (by omega)) rfl

/-- R109, column MBC3. -/
theorem decodeWrite_mbc3 (h : a.toNat ≤ 0x7FFF) : decodeWrite ⟨.mbc3, mode⟩ a v =
    if a.toNat ≤ 0x1FFF then .wrMbc3Ramen a v
    else if a.toNat ≤ 0x3FFF then .wrMbc3Romb a v
    else if a.toNat ≤ 0x5FFF then .wrMbc3Ramb a v
    else .wrMbc3Rtclatch a v := by
  split_ifs
  all_goals exact decodeWrite_of_port rfl (inWindow_iff.2 (by omega)) rfl

/-- R109, column MBC5; R111: the two halves of 0x2000 to 0x3FFF. -/
theorem decodeWrite_mbc5 (h : a.toNat ≤ 0x7FFF) : decodeWrite ⟨.mbc5, mode⟩ a v =
    if a.toNat ≤ 0x1FFF then .wrMbc5Ramen a v
    else if a.toNat ≤ 0x3FFF then (if a.toNat ≤ 0x2FFF then .wrMbc5Romblo a v else .wrMbc5Rombhi a v)
    else if a.toNat ≤ 0x5FFF then .wrMbc5Ramb a v
    else .wrMbc5Nop6 a v := by
  split_ifs
  all_goals exact decodeWrite_of_port rfl (inWindow_iff.2 (by omega)) rfl

/-- R61, R182 to R187: at or above 0x8000 the context does not matter. -/
theorem decodeWrite_upper (ctx : Context) (h : 0x8000 ≤ a.toNat) : decodeWrite ctx a v =
    if a.toNat ≤ 0x9FFF then .wrGap8 a v
    else if a.toNat ≤ 0xBFFF then .wrXram a v
    else if a.toNat ≤ 0xDFFF then .wrWram a v
    else if a.toNat ≤ 0xFDFF then .wrEcho a v
    else if a.toNat ≤ 0xFEFF then .wrGapfe a v
    else if a.toNat ≤ 0xFF7F then .wrIo a v
    else if a.toNat ≤ 0xFFFE then .wrHram a v
    else .wrIe v := by
  split_ifs
  case neg =>
    have ha : a = 0xFFFF#16 := BitVec.eq_of_toNat_eq (show a.toNat = 0xFFFF by omega)
    exact decodeWrite_of_port (by rw [ha]; rfl) rfl rfl
  all_goals exact decodeWrite_of_port rfl (inWindow_iff.2 (by omega)) rfl

end

end Sys2Proof

namespace Sys2Proof.Machine

/-! ### The obligations -/

/-- Settles O32: each window of the table names an operation that is well formed there and belongs to the context, so it
is the one the port decodes to; the step is `memWrite` whatever the operation. -/
theorem writeDispatchFollowsTable : Obligations.WriteDispatchFollowsTable := by
  intro a v ctx
  refine ⟨rfl, (decode_wrWord ctx a v).trans (congrArg Except.ok ?_), fun s => step_wrWord s a v⟩
  obtain ⟨variant, mode⟩ := ctx
  obtain h | h := Nat.lt_or_ge 0x7FFF a.toNat
  · refine (decodeWrite_upper v _ h).trans ?_
    rw [if_neg (show ¬ a.toNat ≤ 0x1FFF by omega), if_neg (show ¬ a.toNat ≤ 0x3FFF by omega),
      if_neg (show ¬ a.toNat ≤ 0x5FFF by omega), if_neg (show ¬ a.toNat ≤ 0x7FFF by omega)]
  · rw [if_pos h]
    cases variant with
    | mbc1 =>
      cases mode with
      | rom => exact decodeWrite_mbc1 .rom v h
      | ram => exact decodeWrite_mbc1 .ram v h
    | mbc2 =>
      rw [decodeWrite_mbc2 mode v h]
      simp only [ite_self]
    | mbc3 => exact decodeWrite_mbc3 mode v h
    | mbc5 => exact decodeWrite_mbc5 mode v h

/-- Settles O33: the two directions of the bus decode totally; the listed writes put back the address space they found,
an external RAM write because it is discarded. -/
theorem busHasNoIllegalAccess : Obligations.BusHasNoIllegalAccess := by
  refine ⟨fun ctx wr a v => ?_, fun a v s => ⟨rfl, rfl, rfl, fun h => ?_, rfl, rfl, rfl, rfl, rfl⟩⟩
  · cases wr with
    | false => exact ⟨decodeRead a, rfl⟩
    | true => exact ⟨decodeWrite ctx a v, rfl⟩
  · exact congrArg (fun sp => Host.Outcome.next (s.toBus sp)) (AddressSpace.writeXram_discarded v h)

end Sys2Proof.Machine
end

section
/-! PROOFS. The pseudo-operations (30_encoding.md section 6): the obligations O50 (the bank that `ROMBANK` selects) and
O51 (the byte that `FETCH` reads, a store just before it included). -/

namespace Sys2Proof.Machine

/-! ### `ROMBANK n` -/

section
variable (s : State) {a b : Word} (v w : Byte) (ha : a.toNat ≤ 0x7FFF)
include ha

/-- R181: a bus write below 0x8000 is the variant's control write. -/
theorem step_wrWord_control :
    step (s.present (wrWord a v)) = .next (s.toMbc (s.bus.mbc.control s.cfg.variant a v)) := by
  rw [step_wrWord, memWrite_control _ _ v ha]
  rfl

theorem runWords_control :
    runWords [wrWord a v] s = .next (s.toMbc (s.bus.mbc.control s.cfg.variant a v)) :=
  runWords_cons_of_step [] (step_wrWord_control s v ha)

/-- Two control writes in a row act on the controller one after the other. -/
theorem runWords_control_control (hb : b.toNat ≤ 0x7FFF) :
    runWords [wrWord a v, wrWord b w] s =
      .next (s.toMbc ((s.bus.mbc.control s.cfg.variant a v).control s.cfg.variant b w)) :=
  (runWords_cons_of_step _ (step_wrWord_control s v ha)).trans (runWords_control _ w hb)

end

section
variable (m : BankController) {n : Nat}

/-- A bank number below 256 goes out as itself. -/
theorem toNat_bankByte (h : n < 256) : (BitVec.ofNat 8 n).toNat = n := by
  rw [BitVec.toNat_ofNat, Nat.mod_eq_of_lt h]

/-- D10: the zero test is on the low five bits alone. -/
theorem mbc1RomLow_bank (h : m.romBank.toNat ≤ 0x7F) :
    (m.mbc1RomLow (BitVec.ofNat 8 (n % 0x20))).romBank.toNat =
      m.romBank.toNat / 32 * 32 + (if n % 32 = 0 then 1 else n % 32) := by
  obtain ⟨hr, -⟩ := mbc1RomLow_spec m (BitVec.ofNat 8 (n % 0x20))
  rw [hr, toNat_bankByte (by omega), Nat.mod_mod, Nat.mod_eq_of_lt (by omega : m.romBank.toNat / 32 < 4)]

/-- The upper write replaces what the lower write kept of the bank before. -/
theorem mbc1RomHigh_mbc1RomLow_bank (h : n < 0x80) :
    ((m.mbc1RomLow (BitVec.ofNat 8 (n % 0x20))).mbc1RomHigh (BitVec.ofNat 8 (n / 0x20))).romBank.toNat =
      n / 32 * 32 + (if n % 32 = 0 then 1 else n % 32) := by
  obtain ⟨hlow, -⟩ := mbc1RomLow_spec m (BitVec.ofNat 8 (n % 0x20))
  obtain ⟨hhigh, -⟩ := mbc1RomHigh_spec (m.mbc1RomLow (BitVec.ofNat 8 (n % 0x20))) (BitVec.ofNat 8 (n / 0x20))
  rw [toNat_bankByte (by omega), Nat.mod_mod] at hlow
  rw [hhigh, toNat_bankByte (by omega), Nat.mod_eq_of_lt (by omega : n / 0x20 < 4), hlow]
  split <;> omega

/-- R201: the write to 0x2000. -/
theorem control_mbc1_low (v : Byte) : m.control .mbc1 0x2000#16 v = m.mbc1RomLow v := rfl

/-- R202: the write to 0x4000 in Rom mode. -/
theorem control_mbc1_high (v : Byte) (h : m.bankMode = .rom) :
    m.control .mbc1 0x4000#16 v = m.mbc1RomHigh v := by
  show (match m.bankMode with | .rom => m.mbc1RomHigh v | .ram => m.ramBankTwoBits v) = m.mbc1RomHigh v
  rw [h]

theorem mbc2Rom_bank (h : n < 0x10) : (m.mbc2Rom (BitVec.ofNat 8 n)).romBank.toNat = n := by
  obtain ⟨hr, -⟩ := mbc2Rom_spec m (BitVec.ofNat 8 n)
  rw [hr, toNat_bankByte (by omega), Nat.mod_eq_of_lt h]

/-- D10: the zero test is on the seven bits. -/
theorem mbc3Rom_bank (h : n < 0x80) :
    (m.mbc3Rom (BitVec.ofNat 8 n)).romBank.toNat = if n = 0 then 1 else n := by
  obtain ⟨hr, -⟩ := mbc3Rom_spec m (BitVec.ofNat 8 n)
  rw [hr, toNat_bankByte (by omega), Nat.mod_eq_of_lt h]

theorem mbc5RomHigh_mbc5RomLow_bank (h : n < 0x200) :
    ((m.mbc5RomLow (BitVec.ofNat 8 (n % 0x100))).mbc5RomHigh (BitVec.ofNat 8 (n / 0x100))).romBank.toNat = n := by
  obtain ⟨hlow, -⟩ := mbc5RomLow_spec m (BitVec.ofNat 8 (n % 0x100))
  obtain ⟨hhigh, -⟩ := mbc5RomHigh_spec (m.mbc5RomLow (BitVec.ofNat 8 (n % 0x100))) (BitVec.ofNat 8 (n / 0x100))
  rw [toNat_bankByte (by omega)] at hlow hhigh
  omega

end

/-! ### `FETCH` -/

theorem results_cons_of_step {s t : State} {w : TWord} (rest : List TWord) (h : step (s.present w) = .next t) :
    results (w :: rest) s = t.reply :: results rest t := by
  rw [results, transact, h]

/-- R134: the step that performs `BUMP`. -/
theorem step_bump (s : State) :
    step (s.present (encode .bump)) = .next (s.toRegs s.rf.bumpPc (.reg s.rf.pc)) :=
  step_present s _ (decode_encode rfl rfl)

/-- R117: `FETCH` advances the PC and answers the byte the PC stood at. -/
theorem results_fetch (s : State) : results [encode .bump, rdWord s.rf.pc] s =
    [.reg s.rf.pc, .bus (memRead s.cfg s.bus s.rf.pc)] := by
  rw [results_cons_of_step _ (step_bump s), results_cons_of_step _ (step_rdWord _ s.rf.pc)]
  rfl

theorem results_fetch_of_memRead {s : State} {b : Byte} (h : memRead s.cfg s.bus s.rf.pc = b) :
    results [encode .bump, rdWord s.rf.pc] s = [.reg s.rf.pc, .bus b] := by
  rw [results_fetch, h]

theorem runWords_fetch (s : State) : runWords [encode .bump, rdWord s.rf.pc] s =
    .next ((s.toRegs s.rf.bumpPc (.reg s.rf.pc)).answer (.bus (memRead s.cfg s.bus s.rf.pc))) := by
  rw [runWords_cons_of_step _ (step_bump s), runWords_cons_of_step _ (step_rdWord _ s.rf.pc)]
  rfl

section
variable {cfg : Config} {sp : AddressSpace} (hsp : sp.wf cfg = true) {a : Word} (v : Byte)
include hsp

/-- R189: work RAM, its mirror, scratch RAM and 0xFFFF read back the byte written. -/
theorem memRead_memWrite_storage (h : (0xC000 ≤ a.toNat ∧ a.toNat ≤ 0xFDFF) ∨ 0xFF80 ≤ a.toNat) :
    memRead cfg (memWrite cfg sp a v) a = v := by
  obtain ⟨-, -, hwram, hhram⟩ := AddressSpace.wf_iff.1 hsp
  obtain ⟨h, h'⟩ | h := h
  · rw [memWrite_workRam _ _ v h h', memRead_workRam _ _ h h']
    exact Memory.read_store_same v hwram (wramIndex_lt a)
  · obtain h' | h' := Nat.lt_or_ge a.toNat 0xFFFF
    · have h' : a.toNat ≤ 0xFFFE := by omega
      rw [memWrite_hram _ _ v h h', memRead_hram _ _ h h']
      exact Memory.read_store_same v hhram (hramIndex_lt h h')
    · rw [memWrite_ie _ _ v h', memRead_ie _ _ h']
      rfl

/-- R182, R189: enabled external RAM in range reads back the byte written, as its cell holds it. -/
theorem memRead_memWrite_xram (h : 0xA000 ≤ a.toNat) (h' : a.toNat ≤ 0xBFFF) (he : sp.mbc.ramEnabled = true)
    (hlt : xramIndex sp.mbc a < cfg.xramSize) :
    memRead cfg (memWrite cfg sp a v) a = xramValue cfg.variant v := by
  obtain ⟨-, hxram, -, -⟩ := AddressSpace.wf_iff.1 hsp
  rw [memWrite_xram _ _ v h h', memRead_xram _ _ h h', AddressSpace.writeXram_of_enabled v he, AddressSpace.readXram,
    if_pos he, inRange, decide_eq_true hlt, if_pos rfl]
  exact Memory.read_store_same _ hxram hlt

end

/-- R182: MBC2 cells hold four bits. -/
theorem xramValue_eq (variant : Variant) (v : Byte) :
    xramValue variant v = if variant = .mbc2 then v &&& 0x0F#8 else v := by
  cases variant <;> rfl

/-! ### The obligations -/

/-- Settles O50: the expansion is one or two control writes, and the controller's field writes give the bank in numbers;
of the invariant only the seven bits of MBC1's `rom_bank` are used. -/
theorem rombankSelectsBank : Obligations.RombankSelectsBank := by
  intro n ws s hs hws
  obtain ⟨-, -, hbus⟩ := State.inv_iff.1 hs
  obtain ⟨hlegal, -⟩ := AddressSpace.wf_iff.1 hbus
  simp only [Pseudo.expand, rombankWords, State.context] at hws
  cases hv : s.cfg.variant with
  | mbc1 =>
    simp only [hv, Option.ite_none_right_eq_some] at hws hlegal
    obtain ⟨hn, hws⟩ := hws
    cases hm : s.bus.mbc.bankMode with
    | rom =>
      rw [hm] at hws
      cases hws
      refine ⟨_, runWords_control_control s _ _ (by decide) (by decide), ?_⟩
      rw [hv, control_mbc1_low, control_mbc1_high (s.bus.mbc.mbc1RomLow _) _ hm]
      exact ⟨rfl, mbc1RomHigh_mbc1RomLow_bank _ hn⟩
    | ram =>
      rw [hm] at hws
      cases hws
      refine ⟨_, runWords_control s _ (by decide), ?_⟩
      rw [hv]
      exact ⟨rfl, mbc1RomLow_bank _ (BankController.romBank_le_of_legal_mbc1 hlegal)⟩
  | mbc2 =>
    simp only [hv, Option.ite_none_right_eq_some] at hws
    obtain ⟨hn, ⟨⟩⟩ := hws
    refine ⟨_, runWords_control s _ (by decide), ?_⟩
    rw [hv]
    exact ⟨rfl, mbc2Rom_bank _ hn⟩
  | mbc3 =>
    simp only [hv, Option.ite_none_right_eq_some] at hws
    obtain ⟨hn, ⟨⟩⟩ := hws
    refine ⟨_, runWords_control s _ (by decide), ?_⟩
    rw [hv]
    exact ⟨rfl, mbc3Rom_bank _ hn⟩
  | mbc5 =>
    simp only [hv, Option.ite_none_right_eq_some] at hws
    obtain ⟨hn, ⟨⟩⟩ := hws
    refine ⟨_, runWords_control_control s _ _ (by decide) (by decide), ?_⟩
    rw [hv]
    exact ⟨rfl, mbc5RomHigh_mbc5RomLow_bank _ hn⟩

/-- Settles O51: `BUMP` answers the PC and leaves the address space alone, so the read sees what the write before it
left; the store moves neither the PC nor the decode of `FETCH`. -/
theorem fetchReadsByteAtPc : Obligations.FetchReadsByteAtPc := by
  refine ⟨fun s => ⟨_, rfl, results_fetch s, _, runWords_fetch s, rfl, rfl⟩, fun v s hs => ?_⟩
  obtain ⟨-, -, hbus⟩ := State.inv_iff.1 hs
  refine ⟨_, _, step_wrWord s s.rf.pc v, rfl, fun h => ?_, fun h h' he hlt => ?_⟩
  · exact results_fetch_of_memRead (memRead_memWrite_storage hbus v h)
  · rw [← xramValue_eq]
    exact results_fetch_of_memRead (memRead_memWrite_xram hbus v h h' he hlt)

end Sys2Proof.Machine
end

section
/-! PROOFS. The transaction word (30_encoding.md sections 2, 5 and 7): the decoder format by format, and the opcode
table row by row. The obligations O54 (the decoder follows the opcode table) and O55 (exactly which words are
rejected). -/

namespace Sys2Proof

/-! ### Fields of fields -/

theorem bit_extract {n lo w j : Nat} {x : BitVec n} (h : j < w) :
    (x.extractLsb' lo w).getLsbD j = x.getLsbD (lo + j) := by
  rw [BitVec.getLsbD_extractLsb', decide_eq_true h, Bool.true_and]

theorem extract_extract {n lo w lo' w' : Nat} (x : BitVec n) (h : lo' + w' ≤ w) :
    (x.extractLsb' lo w).extractLsb' lo' w' = x.extractLsb' (lo + lo') w' := by
  apply BitVec.eq_of_getLsbD_eq
  intro i hi
  rw [bit_extract hi, bit_extract (by omega), bit_extract hi, Nat.add_assoc]

/-! ### The decoder, format by format -/

/-- R102: the reserved bits of format BUS are clear, and a read carries no data. -/
def BusWordClear (t : TWord) : Prop :=
  t.extractLsb' 25 6 = 0#6 ∧ (t.getLsbD 24 = false → t.extractLsb' 0 8 = 0#8)

/-- R103: the reserved bits of format REG are clear. -/
def RegWordClear (t : TWord) : Prop :=
  t.getLsbD 30 = false ∧ t.extractLsb' 16 4 = 0#4

section
variable (ctx : Context) {t : TWord}

theorem decode_bus (h31 : t.getLsbD 31 = false) (hclear : BusWordClear t) :
    decode ctx t = .ok (if t.getLsbD 24 then decodeWrite ctx (t.extractLsb' 8 16) (t.extractLsb' 0 8)
      else decodeRead (t.extractLsb' 8 16)) := by
  obtain ⟨h25, hdata⟩ := hclear
  have hsplit : splitWord t = .ok (.bus (t.getLsbD 24) (t.extractLsb' 8 16) (t.extractLsb' 0 8)) := by
    rw [splitWord, h31, if_neg Bool.false_ne_true, splitBus, if_neg (not_not.2 h25), if_neg fun h => h.2 (hdata h.1)]
  rw [decode, hsplit]
  cases t.getLsbD 24 <;> rfl

theorem decode_bus_rejected (h31 : t.getLsbD 31 = false) (hclear : ¬ BusWordClear t) :
    ∃ e, decode ctx t = .error e := by
  rw [decode, splitWord, h31, if_neg Bool.false_ne_true, splitBus]
  split_ifs with h25 hdata
  · exact ⟨_, rfl⟩
  · exact ⟨_, rfl⟩
  · exact absurd ⟨not_not.1 h25, fun h24 => not_not.1 fun h0 => hdata ⟨h24, h0⟩⟩ hclear

theorem decode_reg (h31 : t.getLsbD 31 = true) (hclear : RegWordClear t) :
    decode ctx t = decodeReg (t.extractLsb' 24 6) (t.extractLsb' 20 4) (t.extractLsb' 0 16) := by
  obtain ⟨h30, h16⟩ := hclear
  have hsplit : splitWord t = .ok (.reg (t.extractLsb' 24 6) (t.extractLsb' 20 4) (t.extractLsb' 0 16)) := by
    rw [splitWord, if_pos h31, splitReg, h30, if_neg Bool.false_ne_true, if_neg (not_not.2 h16)]
  rw [decode, hsplit]
  rfl

theorem decode_reg_rejected (h31 : t.getLsbD 31 = true) (hclear : ¬ RegWordClear t) :
    ∃ e, decode ctx t = .error e := by
  rw [decode, splitWord, if_pos h31, splitReg]
  split_ifs with h30 h16
  · exact ⟨_, rfl⟩
  · exact ⟨_, rfl⟩
  · exact absurd ⟨Bool.not_eq_true _ ▸ h30, not_not.1 h16⟩ hclear

end

/-! ### Which register words spell an operation (R104 to R108) -/

section
variable {sel : BitVec 4}

theorem Reg8.ofCode_isSome_iff : (Reg8.ofCode sel).isSome = true ↔ sel.toNat < 8 := by
  revert sel; decide

theorem View16.ofCode_isSome_iff : (View16.ofCode sel).isSome = true ↔ sel.toNat < 6 := by
  revert sel; decide

theorem Latch.ofCode_isSome_iff : (Latch.ofCode sel).isSome = true ↔ sel.toNat < 3 := by
  revert sel; decide

end

theorem not_isOk_of_isError {r : Except DecodeError Instr} (h : ∃ e, r = .error e) : ¬ ∃ i, r = .ok i := by
  obtain ⟨e, rfl⟩ := h
  exact fun ⟨_, hi⟩ => nomatch hi

theorem whenClear_isOk_iff {u : Bool} {i : Instr} : (∃ j, whenClear u i = .ok j) ↔ u = true := by
  constructor
  · rintro ⟨j, h⟩
    exact (whenClear_ok h).1
  · rintro rfl
    exact ⟨i, rfl⟩

theorem onSelector_isOk_iff {α : Type} {o : Option α} {u : Bool} {mk : α → Instr} :
    (∃ j, onSelector o u mk = .ok j) ↔ o.isSome = true ∧ u = true := by
  cases o with
  | none => exact iff_of_false (not_isOk_of_isError ⟨_, rfl⟩) nofun
  | some x => exact whenClear_isOk_iff.trans (and_iff_right rfl).symm

/-- R104: the operation codes, the selectors they take and the fields they require to be 0. -/
theorem decodeReg_isOk_iff (op : BitVec 6) (sel : BitVec 4) (imm : Word) :
    (∃ i, decodeReg op sel imm = .ok i) ↔
      match op.toNat with
      | 0x00 => sel.toNat < 8 ∧ imm = 0#16
      | 0x01 => sel.toNat < 8 ∧ imm.extractLsb' 8 8 = 0#8
      | 0x02 => sel.toNat < 6 ∧ imm = 0#16
      | 0x03 => sel.toNat < 6
      | 0x04 | 0x05 | 0x06 => sel = 0#4 ∧ imm = 0#16
      | 0x08 | 0x09 | 0x0A => sel = 0#4 ∧ imm.extractLsb' 8 8 = 0#8
      | 0x0B => sel.extractLsb' 1 3 = 0#3 ∧ imm.extractLsb' 8 8 = 0#8
      | 0x0C => sel.toNat < 3 ∧ imm = 0#16
      | 0x0D => sel.toNat < 3 ∧ imm.extractLsb' 1 15 = 0#15
      | _ => False := by
  unfold decodeReg
  split
  -- An unassigned code: the hypotheses that it is none of the thirteen rule out the other branches.
  case h_14 => simp [*]
  all_goals
    rename_i hop
    simp only [hop, onSelector_isOk_iff, whenClear_isOk_iff, Reg8.ofCode_isSome_iff, View16.ofCode_isSome_iff,
      Latch.ofCode_isSome_iff, immIsByte, Bool.and_eq_true, beq_iff_eq, and_true]

/-! ### A masked comparison, field by field -/

/-- A word is its top byte, the address and the data of format BUS (R102). -/
theorem eq_iff_bus_fields {x y : TWord} : x = y ↔
    x.extractLsb' 24 8 = y.extractLsb' 24 8 ∧ x.extractLsb' 8 16 = y.extractLsb' 8 16 ∧
      x.extractLsb' 0 8 = y.extractLsb' 0 8 := by
  refine ⟨fun h => h ▸ ⟨rfl, rfl, rfl⟩, fun h => ?_⟩
  simp only [← BitVec.toNat_inj, BitVec.extractLsb'_toNat, Nat.shiftRight_eq_div_pow] at h ⊢
  omega

/-- A word is its top byte and the fields of format REG below it (R103). -/
theorem eq_iff_reg_fields {x y : TWord} : x = y ↔
    x.extractLsb' 24 8 = y.extractLsb' 24 8 ∧ x.extractLsb' 20 4 = y.extractLsb' 20 4 ∧
      x.extractLsb' 16 4 = y.extractLsb' 16 4 ∧ x.extractLsb' 0 16 = y.extractLsb' 0 16 := by
  refine ⟨fun h => h ▸ ⟨rfl, rfl, rfl, rfl⟩, fun h => ?_⟩
  simp only [← BitVec.toNat_inj, BitVec.extractLsb'_toNat, Nat.shiftRight_eq_div_pow] at h ⊢
  omega

section
variable {t m p : TWord}

theorem and_eq_iff_bus_fields : t &&& m = p ↔
    t.extractLsb' 24 8 &&& m.extractLsb' 24 8 = p.extractLsb' 24 8 ∧
    t.extractLsb' 8 16 &&& m.extractLsb' 8 16 = p.extractLsb' 8 16 ∧
    t.extractLsb' 0 8 &&& m.extractLsb' 0 8 = p.extractLsb' 0 8 := by
  simp only [eq_iff_bus_fields, BitVec.extractLsb'_and]

theorem and_eq_iff_reg_fields : t &&& m = p ↔
    t.extractLsb' 24 8 &&& m.extractLsb' 24 8 = p.extractLsb' 24 8 ∧
    t.extractLsb' 20 4 &&& m.extractLsb' 20 4 = p.extractLsb' 20 4 ∧
    t.extractLsb' 16 4 &&& m.extractLsb' 16 4 = p.extractLsb' 16 4 ∧
    t.extractLsb' 0 16 &&& m.extractLsb' 0 16 = p.extractLsb' 0 16 := by
  simp only [eq_iff_reg_fields, BitVec.extractLsb'_and]

end

section
variable {n : Nat} {x m p : BitVec n}

theorem getLsbD_fieldMask (lo w : Nat) {i : Nat} (hi : i < n) :
    ((BitVec.allOnes w).setWidth n <<< lo).getLsbD i = decide (lo ≤ i ∧ i < lo + w) := by
  rw [BitVec.getLsbD_shiftLeft, BitVec.getLsbD_setWidth, BitVec.getLsbD_allOnes, Bool.eq_iff_iff]
  simp only [Bool.and_eq_true, Bool.not_eq_true', decide_eq_true_eq, decide_eq_false_iff_not]
  omega

/-- A mask of one field compares that field. -/
theorem and_eq_iff_field (lo w : Nat) (hlen : lo + w ≤ n) (hm : m = (BitVec.allOnes w).setWidth n <<< lo)
    (hp : p &&& m = p) : x &&& m = p ↔ x.extractLsb' lo w = p.extractLsb' lo w := by
  subst hm
  constructor
  · rintro rfl
    apply BitVec.eq_of_getLsbD_eq
    intro j hj
    have hmask := getLsbD_fieldMask (n := n) lo w (show lo + j < n by omega)
    rw [decide_eq_true (by omega)] at hmask
    rw [bit_extract hj, bit_extract hj, BitVec.getLsbD_and, hmask, Bool.and_true]
  · intro h
    rw [← hp]
    apply BitVec.eq_of_getLsbD_eq
    intro i hi
    rw [BitVec.getLsbD_and, BitVec.getLsbD_and, getLsbD_fieldMask lo w hi]
    by_cases hf : lo ≤ i ∧ i < lo + w
    · have hbit := congrArg (fun b => b.getLsbD (i - lo)) h
      simp only [bit_extract (show i - lo < w by omega), show lo + (i - lo) = i by omega] at hbit
      rw [hbit]
    · rw [decide_eq_false hf, Bool.and_false, Bool.and_false]

theorem or_and_cancel (m m' : BitVec n) : (m ||| m') &&& m = m := by
  ext i
  rw [BitVec.getElem_and, BitVec.getElem_or]
  cases m[i] <;> simp

/-- A mask of two parts compares both. -/
theorem and_or_eq_iff {m' : BitVec n} (hp : p &&& (m ||| m') = p) :
    x &&& (m ||| m') = p ↔ x &&& m = p &&& m ∧ x &&& m' = p &&& m' := by
  constructor
  · rintro rfl
    constructor
    · rw [BitVec.and_assoc, or_and_cancel]
    · rw [BitVec.and_assoc, BitVec.or_comm, or_and_cancel]
  · rintro ⟨h, h'⟩
    rw [BitVec.and_or_distrib_left, h, h', ← BitVec.and_or_distrib_left, hp]

end

/-! The masks that the rows of the bus have over the address (R120). -/

section
variable {a p : Word}

theorem and_0xFFFF : a &&& 0xFFFF#16 = a := BitVec.and_allOnes

theorem and_0xC000_eq_iff (hp : p &&& 0xC000#16 = p) :
    a &&& 0xC000#16 = p ↔ a.extractLsb' 14 2 = p.extractLsb' 14 2 :=
  and_eq_iff_field 14 2 (by decide) rfl hp

theorem and_0xE000_eq_iff (hp : p &&& 0xE000#16 = p) :
    a &&& 0xE000#16 = p ↔ a.extractLsb' 13 3 = p.extractLsb' 13 3 :=
  and_eq_iff_field 13 3 (by decide) rfl hp

theorem and_0xF000_eq_iff (hp : p &&& 0xF000#16 = p) :
    a &&& 0xF000#16 = p ↔ a.extractLsb' 12 4 = p.extractLsb' 12 4 :=
  and_eq_iff_field 12 4 (by decide) rfl hp

theorem and_0xFF00_eq_iff (hp : p &&& 0xFF00#16 = p) :
    a &&& 0xFF00#16 = p ↔ a.extractLsb' 8 8 = p.extractLsb' 8 8 :=
  and_eq_iff_field 8 8 (by decide) rfl hp

theorem and_0xFF80_eq_iff (hp : p &&& 0xFF80#16 = p) :
    a &&& 0xFF80#16 = p ↔ a.extractLsb' 7 9 = p.extractLsb' 7 9 :=
  and_eq_iff_field 7 9 (by decide) rfl hp

theorem and_0x0100_eq_iff (hp : p &&& 0x0100#16 = p) :
    a &&& 0x0100#16 = p ↔ a.extractLsb' 8 1 = p.extractLsb' 8 1 :=
  and_eq_iff_field 8 1 (by decide) rfl hp

/-- R110: the MBC2 rows look at the window and at address bit 8. -/
theorem and_0xE100_eq_iff (hp : p &&& 0xE100#16 = p) :
    a &&& 0xE100#16 = p ↔ a &&& 0xE000#16 = p &&& 0xE000#16 ∧ a &&& 0x0100#16 = p &&& 0x0100#16 :=
  and_or_eq_iff (m := 0xE000#16) (m' := 0x0100#16) hp

end

/-! ### The first row that selects a word (R120) -/

/-- The mnemonic of what the decoder answers, if it answers an operation. -/
def answeredMnemonic : Except DecodeError Instr → Option String
  | .ok i => some i.mnemonic
  | .error _ => none

/-- The mnemonic of the first of some rows that selects the word: `tableRow` for a part of the table. -/
def firstMnemonic (ctx : Context) (t : TWord) (rows : List OpcodeRow) : Option String :=
  (rows.find? (OpcodeRow.selects ctx t)).map OpcodeRow.mnemonic

section
variable {ctx : Context} {t : TWord}

theorem firstMnemonic_nil : firstMnemonic ctx t [] = none := rfl

theorem firstMnemonic_cons (row : OpcodeRow) (rows : List OpcodeRow) : firstMnemonic ctx t (row :: rows) =
    if row.selects ctx t then some row.mnemonic else firstMnemonic ctx t rows := by
  rw [firstMnemonic, List.find?_cons]
  cases row.selects ctx t <;> rfl

theorem firstMnemonic_append (rows rows' : List OpcodeRow) : firstMnemonic ctx t (rows ++ rows') =
    (firstMnemonic ctx t rows).or (firstMnemonic ctx t rows') := by
  simp only [firstMnemonic, List.find?_append, Option.map_or]

theorem firstMnemonic_eq_none {rows : List OpcodeRow} (h : ∀ row ∈ rows, ¬ row.selects ctx t = true) :
    firstMnemonic ctx t rows = none := by
  rw [firstMnemonic, List.find?_eq_none.2 h]
  rfl

theorem tableRow_eq_none (h : ∀ row ∈ opcodeTable, ¬ row.selects ctx t = true) : tableRow ctx t = none :=
  firstMnemonic_eq_none h

/-- Rows that do not select the word may be left out. -/
theorem firstMnemonic_filter {keep : OpcodeRow → Bool} {rows : List OpcodeRow}
    (h : ∀ row ∈ rows, row.selects ctx t = true → keep row = true) :
    firstMnemonic ctx t rows = firstMnemonic ctx t (rows.filter keep) := by
  rw [firstMnemonic, firstMnemonic, List.find?_filter]
  congr 1
  apply List.find?_congr
  intro row hrow
  cases hs : row.selects ctx t with
  | true => simp [h row hrow hs]
  | false => simp

theorem selects_iff {row : OpcodeRow} : row.selects ctx t = true ↔
    t &&& row.mask = row.pattern ∧ row.variant.all (· == ctx.variant) = true ∧
      row.bankMode.all (· == ctx.bankMode) = true ∧
      row.selMax.all (fun n => decide ((t.extractLsb' 20 3).toNat ≤ n)) = true := by
  simp only [OpcodeRow.selects, Bool.and_eq_true, beq_iff_eq, and_assoc]

/-- A field that the mask covers whole is the pattern's. -/
theorem selects_whole_field {row : OpcodeRow} (h : row.selects ctx t = true) {lo w : Nat}
    (hm : row.mask.extractLsb' lo w = BitVec.allOnes w) : t.extractLsb' lo w = row.pattern.extractLsb' lo w := by
  obtain ⟨hmasked, -⟩ := selects_iff.1 h
  rw [← hmasked, BitVec.extractLsb'_and, hm, BitVec.and_allOnes]

theorem opcodeTable_masks_top : ∀ row ∈ opcodeTable, row.mask.extractLsb' 24 8 = BitVec.allOnes 8 := by
  decide

/-- Only the rows of the word's top byte count. -/
theorem tableRow_eq_firstMnemonic_top : tableRow ctx t =
    firstMnemonic ctx t (opcodeTable.filter fun row => row.pattern.extractLsb' 24 8 == t.extractLsb' 24 8) :=
  firstMnemonic_filter fun row hrow hs =>
    beq_iff_eq.2 (selects_whole_field hs (opcodeTable_masks_top row hrow)).symm

end

/-! ### The rows of the bus -/

section
variable {a : Word}

theorem bit_fifteen_of_not_rom (h0 : ¬ a.extractLsb' 14 2 = 0#2) (h1 : ¬ a.extractLsb' 14 2 = 1#2) :
    a.getLsbD 15 = true := by
  simp only [extract_eq_ofNat_iff, getLsbD_eq_bit, decide_eq_true_eq] at *
  omega

/-- The last row, of the mirror, selects whatever the rows before it leave at or above 0x8000. -/
theorem echo_of_not_below (h15 : a.getLsbD 15 = true) (h4 : ¬ a.extractLsb' 13 3 = 4#3)
    (h5 : ¬ a.extractLsb' 13 3 = 5#3) (h6 : ¬ a.extractLsb' 13 3 = 6#3) : a.extractLsb' 13 3 = 7#3 := by
  simp only [extract_eq_ofNat_iff, getLsbD_eq_bit, decide_eq_true_eq] at *
  omega

end

/-- The 19 rows of the control writes. -/
def controlRows : List OpcodeRow := mbc12Rows ++ mbc35Rows

section
variable {ctx : Context} {t : TWord}

/-- R61, R170: the rows of the bus read stand in the decoder's order, with its conditions. -/
theorem firstMnemonic_readRows (htop : t.extractLsb' 24 8 = 0x00#8) (hdata : t.extractLsb' 0 8 = 0x00#8) :
    firstMnemonic ctx t readRows = some (decodeRead (t.extractLsb' 8 16)).mnemonic := by
  simp only [readRows, firstMnemonic_cons, firstMnemonic_nil, selects_iff, and_eq_iff_bus_fields, htop, hdata,
    Option.all_none, and_true, BitVec.reduceExtractLsb', BitVec.reduceAnd, true_and]
  generalize t.extractLsb' 8 16 = a
  simp only [and_0xC000_eq_iff, and_0xE000_eq_iff, and_0xFFFF, and_0xFF80_eq_iff, and_0xFF00_eq_iff,
    BitVec.reduceExtractLsb', BitVec.reduceAnd, decodeRead, apply_ite Instr.mnemonic, apply_ite some]
  refine ite_congr rfl (fun _ => rfl) fun h0 => ite_congr rfl (fun _ => rfl) fun h1 =>
    ite_congr rfl (fun _ => rfl) fun h4 => ite_congr rfl (fun _ => rfl) fun h5 =>
    ite_congr rfl (fun _ => rfl) fun h6 => ite_congr rfl (fun _ => rfl) fun _ =>
    ite_congr rfl (fun _ => rfl) fun _ => ite_congr rfl (fun _ => rfl) fun _ =>
    ite_congr rfl (fun _ => rfl) fun _ => ?_
  exact if_pos (echo_of_not_below (bit_fifteen_of_not_rom h0 h1) h4 h5 h6)

/-- The rows of the control writes have bit 15 of the address in their mask and clear in their pattern. -/
theorem firstMnemonic_controlRows_eq_none (h15 : (t.extractLsb' 8 16).getLsbD 15 = true) :
    firstMnemonic ctx t controlRows = none := by
  have hrows : ∀ row ∈ controlRows,
      row.mask.extractLsb' 23 1 = BitVec.allOnes 1 ∧ row.pattern.extractLsb' 23 1 = 0#1 := by
    decide
  refine firstMnemonic_eq_none fun row hrow hs => ?_
  obtain ⟨hmask, hpattern⟩ := hrows row hrow
  have h23 := bit_of_extract_zero ((selects_whole_field hs hmask).trans hpattern) (j := 0) (by decide)
  rw [bit_extract (by decide)] at h15
  exact absurd (h15.symm.trans h23) (by decide)

section
variable (htop : t.extractLsb' 24 8 = 0x01#8)
include htop

/-- R61, R180: so do the rows of the bus write outside the control range. -/
theorem firstMnemonic_writeRows (h15 : (t.extractLsb' 8 16).getLsbD 15 = true) :
    firstMnemonic ctx t writeRows = some (decodeWrite ctx (t.extractLsb' 8 16) (t.extractLsb' 0 8)).mnemonic := by
  simp only [writeRows, firstMnemonic_cons, firstMnemonic_nil, selects_iff, and_eq_iff_bus_fields, htop,
    Option.all_none, and_true, BitVec.reduceExtractLsb', BitVec.reduceAnd, true_and, BitVec.and_zero]
  generalize t.extractLsb' 8 16 = a at *
  simp only [and_0xE000_eq_iff, and_0xFFFF, and_0xFF80_eq_iff, and_0xFF00_eq_iff, BitVec.reduceExtractLsb',
    BitVec.reduceAnd, decodeWrite, h15, reduceCtorEq, if_false, apply_ite Instr.mnemonic, apply_ite some]
  refine ite_congr rfl (fun _ => rfl) fun h4 => ite_congr rfl (fun _ => rfl) fun h5 =>
    ite_congr rfl (fun _ => rfl) fun h6 => ite_congr rfl (fun _ => rfl) fun _ =>
    ite_congr rfl (fun _ => rfl) fun _ => ite_congr rfl (fun _ => rfl) fun _ =>
    ite_congr rfl (fun _ => rfl) fun _ => ?_
  exact if_pos (echo_of_not_below h15 h4 h5 h6)

/-- R109, R115: of the control rows the context leaves those of one variant and mode. -/
theorem firstMnemonic_controlRows (hlow : (t.extractLsb' 8 16).toNat ≤ 0x7FFF) :
    firstMnemonic ctx t controlRows = some (decodeWrite ctx (t.extractLsb' 8 16) (t.extractLsb' 0 8)).mnemonic := by
  obtain ⟨variant, mode⟩ := ctx
  simp only [controlRows, mbc12Rows, mbc35Rows, List.cons_append, List.nil_append, firstMnemonic_cons,
    firstMnemonic_nil, selects_iff, and_eq_iff_bus_fields, htop, Option.all_none, Option.all_some, and_true,
    beq_iff_eq, BitVec.reduceExtractLsb', BitVec.reduceAnd, BitVec.and_zero, true_and]
  generalize t.extractLsb' 8 16 = a at *
  simp only [and_0xE100_eq_iff, and_0xC000_eq_iff, and_0xE000_eq_iff, and_0x0100_eq_iff, and_0xF000_eq_iff,
    extract_eq_ofNat_iff, BitVec.reduceExtractLsb', BitVec.reduceAnd]
  cases variant
  case' mbc1 =>
    rw [decodeWrite_mbc1 _ _ hlow]
    cases mode
  case' mbc2 => rw [decodeWrite_mbc2 _ _ hlow]
  case' mbc3 => rw [decodeWrite_mbc3 _ _ hlow]
  case' mbc5 => rw [decodeWrite_mbc5 _ _ hlow]
  all_goals
    simp only [reduceCtorEq, and_false, false_and, if_false, and_true]
    split_ifs
  -- The row's window and the decoder's are one and name one operation, or no address lies in both.
  any_goals rfl
  all_goals omega

theorem tableRow_write :
    tableRow ctx t = some (decodeWrite ctx (t.extractLsb' 8 16) (t.extractLsb' 0 8)).mnemonic := by
  have hrows : (opcodeTable.filter fun row => row.pattern.extractLsb' 24 8 == 0x01#8) = controlRows ++ writeRows := by
    decide
  rw [tableRow_eq_firstMnemonic_top, htop, hrows, firstMnemonic_append]
  cases h15 : (t.extractLsb' 8 16).getLsbD 15 with
  | false =>
    have hlow : (t.extractLsb' 8 16).toNat ≤ 0x7FFF := by
      have := (t.extractLsb' 8 16).isLt
      rw [getLsbD_eq_bit, decide_eq_false_iff_not] at h15
      omega
    rw [firstMnemonic_controlRows htop hlow]
    rfl
  | true =>
    rw [firstMnemonic_controlRows_eq_none h15, firstMnemonic_writeRows htop h15]
    rfl

end

theorem tableRow_read (htop : t.extractLsb' 24 8 = 0x00#8) (hdata : t.extractLsb' 0 8 = 0x00#8) :
    tableRow ctx t = some (decodeRead (t.extractLsb' 8 16)).mnemonic := by
  have hrows : (opcodeTable.filter fun row => row.pattern.extractLsb' 24 8 == 0x00#8) = readRows := by
    decide
  rw [tableRow_eq_firstMnemonic_top, htop, hrows, firstMnemonic_readRows htop hdata]

theorem getLsbD_eq_decide_div {n i : Nat} {x : BitVec n} : x.getLsbD i = decide (x.toNat / 2 ^ i % 2 = 1) :=
  Nat.testBit_eq_decide_div_mod_eq

/-- R102: the top byte of format BUS is the direction bit. -/
theorem top_of_bus (h31 : t.getLsbD 31 = false) (h25 : t.extractLsb' 25 6 = 0#6) :
    t.extractLsb' 24 8 = if t.getLsbD 24 then 0x01#8 else 0x00#8 := by
  rw [getLsbD_eq_decide_div, decide_eq_false_iff_not] at h31
  rw [← BitVec.toNat_inj, BitVec.extractLsb'_toNat, Nat.shiftRight_eq_div_pow, BitVec.toNat_ofNat] at h25
  rw [← BitVec.toNat_inj, BitVec.extractLsb'_toNat, Nat.shiftRight_eq_div_pow, getLsbD_eq_decide_div]
  simp only [decide_eq_true_eq]
  split
  · show _ = 1
    omega
  · show _ = 0
    omega

theorem tableRow_bus (h31 : t.getLsbD 31 = false) (hclear : BusWordClear t) :
    tableRow ctx t = some (if t.getLsbD 24 then decodeWrite ctx (t.extractLsb' 8 16) (t.extractLsb' 0 8)
      else decodeRead (t.extractLsb' 8 16)).mnemonic := by
  obtain ⟨h25, hdata⟩ := hclear
  have htop := top_of_bus h31 h25
  cases h24 : t.getLsbD 24 with
  | false =>
    rw [h24] at htop
    exact tableRow_read htop (hdata h24)
  | true =>
    rw [h24] at htop
    exact tableRow_write htop

end

/-! ### The rows of the register port -/

/-- A row admits a selector whose masked bits are 0 and whose low bits do not exceed the row's largest. -/
def selectorAdmitted (mask : BitVec 4) (max : Option Nat) (sel : BitVec 4) : Bool :=
  sel &&& mask == 0#4 && max.all fun n => decide ((sel.extractLsb' 0 3).toNat ≤ n)

/-- A row admits an immediate whose masked bits are 0. -/
def immAdmitted (mask imm : Word) : Bool := imm &&& mask == 0#16

section
variable (sel : BitVec 4) (imm : Word)

theorem selectorAdmitted_reg8 : selectorAdmitted 8#4 none sel = (Reg8.ofCode sel).isSome := by
  revert sel; decide

theorem selectorAdmitted_view16 : selectorAdmitted 8#4 (some 5) sel = (View16.ofCode sel).isSome := by
  revert sel; decide

theorem selectorAdmitted_latch : selectorAdmitted 12#4 (some 2) sel = (Latch.ofCode sel).isSome := by
  revert sel; decide

theorem selectorAdmitted_zero : selectorAdmitted 15#4 none sel = (sel == 0#4) := by
  revert sel; decide

theorem selectorAdmitted_bool : selectorAdmitted 14#4 none sel = (sel.extractLsb' 1 3 == 0#3) := by
  revert sel; decide

theorem immAdmitted_zero : immAdmitted 0xFFFF#16 imm = (imm == 0#16) := by
  rw [immAdmitted, and_0xFFFF]

theorem immAdmitted_byte : immAdmitted 0xFF00#16 imm = immIsByte imm := by
  rw [Bool.eq_iff_iff, immAdmitted, immIsByte, beq_iff_eq, beq_iff_eq]
  exact and_0xFF00_eq_iff rfl

theorem immAdmitted_bool : immAdmitted 0xFFFE#16 imm = (imm.extractLsb' 1 15 == 0#15) := by
  rw [Bool.eq_iff_iff, immAdmitted, beq_iff_eq, beq_iff_eq]
  exact and_eq_iff_field 1 15 (by decide) rfl rfl

theorem immAdmitted_word : immAdmitted 0x0000#16 imm = true := by
  rw [immAdmitted, BitVec.and_zero]
  rfl

end

/-- The rows of the register port by their place in the table. -/
def registerRow (k : Fin 13) : OpcodeRow := registerRows[k]

/-- R104: a register row is the only one of its top byte; its pattern is 0 below, and it has no context. -/
theorem registerRow_shape : ∀ k : Fin 13,
    (opcodeTable.filter fun row => row.pattern.extractLsb' 24 8 == (registerRow k).pattern.extractLsb' 24 8) =
      [registerRow k] ∧
    (registerRow k).mask.extractLsb' 24 8 = BitVec.allOnes 8 ∧ (registerRow k).pattern.extractLsb' 20 4 = 0#4 ∧
    (registerRow k).pattern.extractLsb' 16 4 = 0#4 ∧ (registerRow k).pattern.extractLsb' 0 16 = 0#16 ∧
    (registerRow k).variant = none ∧ (registerRow k).bankMode = none := by
  decide

section
variable {ctx : Context} {t : TWord} (k : Fin 13)
  (htop : t.extractLsb' 24 8 = (registerRow k).pattern.extractLsb' 24 8) (h16 : t.extractLsb' 16 4 = 0#4)
  {selOk immOk : Bool}
  (hsel : selectorAdmitted ((registerRow k).mask.extractLsb' 20 4) (registerRow k).selMax (t.extractLsb' 20 4) = selOk)
  (himm : immAdmitted ((registerRow k).mask.extractLsb' 0 16) (t.extractLsb' 0 16) = immOk)
include htop h16 hsel himm

/-- The row of the word's operation code decides alone, by the selector and the immediate. -/
theorem tableRow_register : tableRow ctx t = if selOk && immOk then some (registerRow k).mnemonic else none := by
  obtain ⟨honly, hmask, hsel0, hreserved, himm0, hvariant, hmode⟩ := registerRow_shape k
  have hselects : (registerRow k).selects ctx t = true ↔ (selOk && immOk) = true := by
    rw [← hsel, ← himm, selects_iff, and_eq_iff_reg_fields, htop, h16, hmask, hsel0, hreserved, himm0, hvariant,
      hmode, BitVec.and_allOnes, BitVec.zero_and, selectorAdmitted, immAdmitted, extract_extract _ (by decide)]
    simp only [Bool.and_eq_true, beq_iff_eq, Option.all_none, true_and]
    tauto
  rw [tableRow_eq_firstMnemonic_top, htop, honly, firstMnemonic_cons, firstMnemonic_nil]
  simp only [hselects]

theorem tableRow_whenClear {i : Instr} (hm : i.mnemonic = (registerRow k).mnemonic) :
    tableRow ctx t = answeredMnemonic (whenClear (selOk && immOk) i) := by
  rw [tableRow_register k htop h16 hsel himm, ← hm]
  cases selOk && immOk <;> rfl

theorem tableRow_onSelector {α : Type} {o : Option α} {mk : α → Instr} (ho : selOk = o.isSome)
    (hm : ∀ x, (mk x).mnemonic = (registerRow k).mnemonic) :
    tableRow ctx t = answeredMnemonic (onSelector o immOk mk) := by
  subst ho
  cases o with
  | none =>
    rw [tableRow_register k htop h16 hsel himm]
    rfl
  | some x => exact tableRow_whenClear k htop h16 hsel himm (hm x)

end

/-! ### Words that no row selects (R113) -/

/-- What the rows say of the reserved bits, of a read's data and of the operation codes. -/
theorem opcodeTable_shape : ∀ row ∈ opcodeTable,
    ((row.pattern.extractLsb' 24 8).getLsbD 7 = false → (row.pattern.extractLsb' 24 8).extractLsb' 1 6 = 0#6 ∧
      ((row.pattern.extractLsb' 24 8).getLsbD 0 = false →
        row.mask.extractLsb' 0 8 = BitVec.allOnes 8 ∧ row.pattern.extractLsb' 0 8 = 0#8)) ∧
    ((row.pattern.extractLsb' 24 8).getLsbD 7 = true → (row.pattern.extractLsb' 24 8).getLsbD 6 = false ∧
      ((row.pattern.extractLsb' 24 8).extractLsb' 0 6).toNat ∈ [0, 1, 2, 3, 4, 5, 6, 8, 9, 10, 11, 12, 13] ∧
      row.mask.extractLsb' 16 4 = BitVec.allOnes 4 ∧ row.pattern.extractLsb' 16 4 = 0#4) := by
  decide

section
variable {ctx : Context} {t : TWord} {row : OpcodeRow} (hrow : row ∈ opcodeTable) (hs : row.selects ctx t = true)
include hrow hs

theorem busWordClear_of_selects (h31 : t.getLsbD 31 = false) : BusWordClear t := by
  obtain ⟨hbus, -⟩ := opcodeTable_shape row hrow
  rw [← selects_whole_field hs (opcodeTable_masks_top row hrow), bit_extract (by decide), bit_extract (by decide),
    extract_extract _ (by decide)] at hbus
  obtain ⟨h25, hread⟩ := hbus h31
  refine ⟨h25, fun h24 => ?_⟩
  obtain ⟨hmask, hpattern⟩ := hread h24
  exact (selects_whole_field hs hmask).trans hpattern

theorem regWordClear_of_selects (h31 : t.getLsbD 31 = true) : RegWordClear t ∧
    (t.extractLsb' 24 6).toNat ∈ [0, 1, 2, 3, 4, 5, 6, 8, 9, 10, 11, 12, 13] := by
  obtain ⟨-, hreg⟩ := opcodeTable_shape row hrow
  rw [← selects_whole_field hs (opcodeTable_masks_top row hrow), bit_extract (by decide), bit_extract (by decide),
    extract_extract _ (by decide)] at hreg
  obtain ⟨h30, hcode, hmask, hpattern⟩ := hreg h31
  exact ⟨⟨h30, (selects_whole_field hs hmask).trans hpattern⟩, hcode⟩

end

section
variable {ctx : Context} {t : TWord}

/-- R103: the top byte of format REG is the operation code below bits 31:30. -/
theorem top_of_reg (h31 : t.getLsbD 31 = true) (h30 : t.getLsbD 30 = false) :
    t.extractLsb' 24 8 = 0x80#8 + (t.extractLsb' 24 6).setWidth 8 := by
  rw [getLsbD_eq_decide_div, decide_eq_true_eq] at h31
  rw [getLsbD_eq_decide_div, decide_eq_false_iff_not] at h30
  simp only [← BitVec.toNat_inj, BitVec.toNat_add, BitVec.toNat_setWidth, BitVec.extractLsb'_toNat,
    Nat.shiftRight_eq_div_pow, BitVec.toNat_ofNat]
  omega

/-- R104, R120: the operation codes in the decoder's order, each with the place of its row. -/
theorem tableRow_reg (h31 : t.getLsbD 31 = true) (hclear : RegWordClear t) :
    tableRow ctx t = answeredMnemonic (decodeReg (t.extractLsb' 24 6) (t.extractLsb' 20 4) (t.extractLsb' 0 16)) := by
  obtain ⟨h30, h16⟩ := hclear
  have htop := top_of_reg h31 h30
  have hop : t.extractLsb' 24 6 = BitVec.ofNat 6 (t.extractLsb' 24 6).toNat := by
    rw [BitVec.ofNat_toNat, BitVec.setWidth_eq]
  unfold decodeReg
  split
  case h_14 =>
    refine tableRow_eq_none fun row hrow hs => ?_
    obtain ⟨-, hcode⟩ := regWordClear_of_selects hrow hs h31
    simp only [List.mem_cons, List.not_mem_nil, or_false] at hcode
    grind
  all_goals
    rename_i hcode
    rw [hop, hcode] at htop
  case h_1 => exact tableRow_onSelector 0 htop h16 (selectorAdmitted_reg8 _) (immAdmitted_zero _) rfl fun _ => by rfl
  case h_2 => exact tableRow_onSelector 1 htop h16 (selectorAdmitted_reg8 _) (immAdmitted_byte _) rfl fun _ => by rfl
  case h_3 =>
    exact tableRow_onSelector 2 htop h16 (selectorAdmitted_view16 _) (immAdmitted_zero _) rfl fun _ => by rfl
  case h_4 =>
    exact tableRow_onSelector 3 htop h16 (selectorAdmitted_view16 _) (immAdmitted_word _) rfl fun _ => by rfl
  case h_5 => exact tableRow_whenClear 4 htop h16 (selectorAdmitted_zero _) (immAdmitted_zero _) (by rfl)
  case h_6 => exact tableRow_whenClear 5 htop h16 (selectorAdmitted_zero _) (immAdmitted_zero _) (by rfl)
  case h_7 => exact tableRow_whenClear 6 htop h16 (selectorAdmitted_zero _) (immAdmitted_zero _) (by rfl)
  case h_8 => exact tableRow_whenClear 7 htop h16 (selectorAdmitted_zero _) (immAdmitted_byte _) (by rfl)
  case h_9 => exact tableRow_whenClear 8 htop h16 (selectorAdmitted_zero _) (immAdmitted_byte _) (by rfl)
  case h_10 => exact tableRow_whenClear 9 htop h16 (selectorAdmitted_zero _) (immAdmitted_byte _) (by rfl)
  case h_11 => exact tableRow_whenClear 10 htop h16 (selectorAdmitted_bool _) (immAdmitted_byte _) (by rfl)
  case h_12 =>
    exact tableRow_onSelector 11 htop h16 (selectorAdmitted_latch _) (immAdmitted_zero _) rfl fun _ => by rfl
  case h_13 =>
    exact tableRow_onSelector 12 htop h16 (selectorAdmitted_latch _) (immAdmitted_bool _) rfl fun _ => by rfl

end

/-! ### The obligations -/

/-- Settles O55: a word decodes exactly when its format's reserved bits are clear and, in format REG, its operation code
takes the selector and the immediate. -/
theorem reservedWordsAreExactlyRejected : Obligations.ReservedWordsAreExactlyRejected := by
  intro ctx t
  refine ⟨fun h31 => ?_, fun h31 => ?_⟩
  · by_cases hclear : BusWordClear t
    · exact iff_of_true ⟨_, decode_bus ctx h31 hclear⟩ hclear
    · exact iff_of_false (not_isOk_of_isError (decode_bus_rejected ctx h31 hclear)) hclear
  · by_cases hclear : RegWordClear t
    · have hfields := decodeReg_isOk_iff (t.extractLsb' 24 6) (t.extractLsb' 20 4) (t.extractLsb' 0 16)
      rw [extract_extract _ (by decide), extract_extract _ (by decide), extract_extract _ (by decide)] at hfields
      rw [decode_reg ctx h31 hclear, hfields]
      exact ⟨fun h => ⟨hclear.1, hclear.2, h⟩, fun ⟨_, _, h⟩ => h⟩
    · refine iff_of_false (not_isOk_of_isError (decode_reg_rejected ctx h31 hclear)) ?_
      exact fun ⟨h30, h16, _⟩ => hclear ⟨h30, h16⟩

/-- Settles O54: by the two formats. A word with its reserved bits clear has the rows of its top byte alone, which are
the decoder's cases; another is rejected, and no row selects it. -/
theorem decoderFollowsOpcodeTable : Obligations.DecoderFollowsOpcodeTable := by
  intro ctx t
  show tableRow ctx t = answeredMnemonic (decode ctx t)
  cases h31 : t.getLsbD 31 with
  | false =>
    by_cases hclear : BusWordClear t
    · rw [decode_bus ctx h31 hclear]
      exact tableRow_bus h31 hclear
    · obtain ⟨e, he⟩ := decode_bus_rejected ctx h31 hclear
      rw [he]
      exact tableRow_eq_none fun row hrow hs => hclear (busWordClear_of_selects hrow hs h31)
  | true =>
    by_cases hclear : RegWordClear t
    · rw [decode_reg ctx h31 hclear]
      exact tableRow_reg h31 hclear
    · obtain ⟨e, he⟩ := decode_reg_rejected ctx h31 hclear
      rw [he]
      exact tableRow_eq_none fun row hrow hs => hclear (regWordClear_of_selects hrow hs h31).1

end Sys2Proof
end

section
/-! PROOFS. The register port (40_regfile_ops.md): a register operation works on RegisterFile alone and a bus operation
on AddressSpace and the configuration alone (O18), what moves the PC (O17), and what `RD8`, `BUMP`, `RDCTL` and `WRCTL`
do and how they are written as words (O6, O10, O14). -/

namespace Sys2Proof

/-! ### The words of the register port (R103) -/

/-- The immediate field of an operation without an immediate adds nothing to its word. -/
theorem Port.word_reg_zero (op : BitVec 6) (sel : BitVec 4) : (Port.reg op sel 0#16).word =
    0x80000000#32 ||| (op.setWidth 32 <<< 24) ||| (sel.setWidth 32 <<< 20) := by
  rw [Port.word, BitVec.setWidth_zero, BitVec.or_zero]

theorem boolImm_setWidth (b : Bool) : (boolImm b).setWidth 32 = if b then 1#32 else 0#32 := by
  cases b <;> rfl

theorem encode_rd8 (r : Reg8) : encode (.rd8 r) = 0x80000000#32 ||| (r.code.setWidth 32 <<< 20) :=
  Port.word_reg_zero 0x00#6 r.code

theorem encode_rdctl (c : Latch) : encode (.rdctl c) = 0x8C000000#32 ||| (c.code.setWidth 32 <<< 20) :=
  Port.word_reg_zero 0x0C#6 c.code

theorem encode_wrctl (c : Latch) (b : Bool) : encode (.wrctl c b) =
    0x8D000000#32 ||| (c.code.setWidth 32 <<< 20) ||| (if b then 1#32 else 0#32) := by
  rw [← boolImm_setWidth]
  rfl

end Sys2Proof

namespace Sys2Proof.Machine

theorem zext16_toNat (v : Byte) : (zext16 v).toNat = v.toNat :=
  BitVec.toNat_setWidth_of_le (by decide)

/-- R23: F's low four bits are 0, in numbers. -/
theorem RegisterFile.f_mod_sixteen {g : RegisterFile} (h : g.wf = true) : g.f.toNat % 16 = 0 := by
  rw [← low_nibble, RegisterFile.wf_iff.1 h]
  rfl

/-! ### The two ports are not coupled (R1, R144) -/

/-- An operation ends one state in at most one next state. -/
theorem exec_next_unique {i : Instr} {s t t' : State} (h : exec i s = .next t) (h' : exec i s = .next t') : t = t' :=
  Host.Outcome.next.inj (h.symm.trans h')

/-- R144: what a register operation leaves in RegisterFile and what it returns are the same from every state with the
same registers, and the rest of that state stays. -/
theorem exec_regOp_of_rf_eq {i : Instr} {s s' t : State} (hi : i.isRegOp = true) (h : exec i s = .next t)
    (hrf : s.rf = s'.rf) : exec i s' = .next (s'.toRegs t.rf t.reply) := by
  cases s
  cases hrf
  cases i with
  | rd8 | wr8 | rd16 | wr16 | bump | inchl | dechl | ftest | fset | fclr | fput | rdctl | wrctl => cases h; rfl
  | _ => cases hi

/-- R1: what a bus operation leaves in AddressSpace and what it returns are the same from every state with the same
address space and configuration, and the rest of that state stays. -/
theorem exec_busOp_of_bus_eq {i : Instr} {s s' t : State} (hi : i.isRegOp = false) (h : exec i s = .next t)
    (hbus : s.bus = s'.bus) (hcfg : s.cfg = s'.cfg) :
    exec i s' = .next { s' with bus := t.bus, reply := t.reply } := by
  cases s
  cases hbus
  cases hcfg
  cases i with
  | rd8 | wr8 | rd16 | wr16 | bump | inchl | dechl | ftest | fset | fclr | fput | rdctl | wrctl => cases hi
  | _ => cases h; rfl

/-! ### The program counter (R147) -/

/-- The view PC is the only one that overlaps the PC. -/
theorem RegisterFile.write16_pc_other (g : RegisterFile) {p : View16} (v : Word) (h : p ≠ .pc) :
    (g.write16 p v).pc = g.pc := by
  cases p with
  | af | bc | de | hl | sp => rfl
  | pc => exact absurd rfl h

/-- R147: an operation other than `BUMP` and `WR16 PC` keeps the PC. -/
theorem exec_pc {i : Instr} {s t : State} (h : exec i s = .next t) (hb : i ≠ .bump) (hw : ∀ v, i ≠ .wr16 .pc v) :
    t.rf.pc = s.rf.pc := by
  cases i with
  | bump => exact absurd rfl hb
  | wr16 p v => cases h; exact s.rf.write16_pc_other v fun hp => hw v (hp ▸ rfl)
  | wr8 r v => cases h; exact s.rf.write8_pc r v
  | inchl => cases h; exact s.rf.incHl_pc
  | dechl => cases h; exact s.rf.decHl_pc
  | wrctl c b => cases h; exact s.rf.setLatch_pc c b
  | _ => cases h; rfl

/-! ### The obligations -/

/-- Settles O18: each port's operation updates its own component alone, and alike from every state that agrees on it. -/
theorem portsAreUncoupled : Obligations.PortsAreUncoupled := by
  refine ⟨fun i s t h => ⟨fun hi => ?_, fun hi => ?_⟩,
    fun i s s' t t' h h' => ⟨fun hi hrf => ?_, fun hi hbus hcfg => ?_⟩⟩
  · rw [exec_next_unique h (exec_regOp_of_rf_eq hi h rfl), State.toRegs_bus]
  · rw [exec_next_unique h (exec_busOp_of_bus_eq hi h rfl rfl)]
  · cases exec_next_unique h' (exec_regOp_of_rf_eq hi h hrf)
    exact ⟨rfl, rfl⟩
  · cases exec_next_unique h' (exec_busOp_of_bus_eq hi h hbus hcfg)
    exact ⟨rfl, rfl⟩

/-- Settles O17: `BUMP` and `WR16 PC` by their definitions, every other operation by `exec_pc`. -/
theorem onlyBumpAndWr16ChangePc : Obligations.OnlyBumpAndWr16ChangePc := by
  refine ⟨fun i s t h => ?_, fun s target => ⟨_, rfl, rfl⟩, fun cfg => rfl⟩
  split
  · cases h; exact s.rf.bumpPc_pc
  · cases h; rfl
  · next hb hw => exact exec_pc h hb hw

/-- Settles O6: the result is the register zero-extended, and the invariant keeps F's low nibble 0. -/
theorem rd8ReturnsRegister : Obligations.Rd8ReturnsRegister := by
  intro r s
  refine ⟨encode_rd8 r, zext16 (s.rf.read8 r), rfl, zext16_toNat _, ?_⟩
  rintro hs rfl
  obtain ⟨-, hrf, -⟩ := State.inv_iff.1 hs
  rw [zext16_toNat]
  exact RegisterFile.f_mod_sixteen hrf

/-- Settles O10: `BUMP` is `bumpPc` with the old PC as its result, and addition of words wraps. -/
theorem bumpReturnsAndAdvancesPc : Obligations.BumpReturnsAndAdvancesPc :=
  ⟨rfl, fun s => ⟨s.rf.pc + 1#16, rfl, BitVec.toNat_add s.rf.pc 1#16⟩⟩

/-- Settles O14: the words by their fields; each latch is read and set by its own arm of `latch` and `setLatch`. -/
theorem latchesReadAndWrite : Obligations.LatchesReadAndWrite :=
  fun b _ => ⟨fun c => ⟨encode_rdctl c, encode_wrctl c b⟩, rfl, rfl, rfl, rfl, rfl, rfl⟩

end Sys2Proof.Machine
end

section
/-! PROOFS. The bus router (41_bus_router.md): the operation an address asks for, the cells that reads and writes of
each window reach (O20, O23 to O26, O28, O29, O31), and the laws that follow, which are that storage reads back what
was written, through the mirror too (O35, O36), and that external RAM outlives the control writes (O49). -/

namespace Sys2Proof

/-! ### Windows: the fields at the top of an address (R61) -/

section
variable {a : Word}

theorem window_rom0 (h : a.extractLsb' 14 2 = 0#2) : 0x0000 ≤ a.toNat ∧ a.toNat ≤ 0x3FFF := by
  have ha := a.isLt
  rw [extract_eq_ofNat_iff] at h
  omega

theorem window_gap8 (h : a.extractLsb' 13 3 = 4#3) : 0x8000 ≤ a.toNat ∧ a.toNat ≤ 0x9FFF := by
  have ha := a.isLt
  rw [extract_eq_ofNat_iff] at h
  omega

theorem window_wram (h : a.extractLsb' 13 3 = 6#3) : 0xC000 ≤ a.toNat ∧ a.toNat ≤ 0xDFFF := by
  have ha := a.isLt
  rw [extract_eq_ofNat_iff] at h
  omega

/-- The mirror shares its field with the ranges from 0xFE00 up. -/
theorem window_echo (h : a.extractLsb' 13 3 = 7#3) : 0xE000 ≤ a.toNat := by
  have ha := a.isLt
  rw [extract_eq_ofNat_iff] at h
  omega

theorem window_gapfe (h : a.extractLsb' 8 8 = 0xFE#8) : 0xFE00 ≤ a.toNat ∧ a.toNat ≤ 0xFEFF := by
  have ha := a.isLt
  rw [extract_eq_ofNat_iff] at h
  omega

theorem window_io (h : a.extractLsb' 7 9 = 0x1FE#9) : 0xFF00 ≤ a.toNat ∧ a.toNat ≤ 0xFF7F := by
  have ha := a.isLt
  rw [extract_eq_ofNat_iff] at h
  omega

/-- Scratch RAM shares its field with 0xFFFF. -/
theorem window_hram (h : a.extractLsb' 7 9 = 0x1FF#9) (hie : a ≠ 0xFFFF#16) :
    0xFF80 ≤ a.toNat ∧ a.toNat ≤ 0xFFFE := by
  have ha := a.isLt
  rw [extract_eq_ofNat_iff] at h
  have hne : a.toNat ≠ 0xFFFF := fun h' => hie (BitVec.eq_of_toNat_eq h')
  omega

end

/-! ### What a bus read asks for (R170) -/

/-- The operation of a read is well formed, so its window holds the address. -/
theorem wf_of_decodePort_read {ctx : Context} {a : Word} {i : Instr}
    (h : decodePort ctx (.bus false a 0#8) = .ok i) : i.wf = true ∧ i.port = .bus false a 0#8 := by
  obtain ⟨hwf, -, hport⟩ := decodeRead_wf a ctx
  cases h
  exact ⟨hwf, hport⟩

/-- R61: a bus read is the operation that carries its address. -/
theorem decodeRead_of_port {ctx : Context} {i : Instr} {a : Word} (hport : i.port = .bus false a 0#8)
    (hwf : i.wf = true) (hctx : i.inContext ctx = true) : decodeRead a = i := by
  have h := decodePort_port i ctx hwf hctx
  rw [hport] at h
  exact Except.ok.inj h

/-- R170: the branches in the rule's order. -/
theorem decodeRead_eq (a : Word) : decodeRead a =
    if a.toNat ≤ 0x3FFF then .rdRom0 a
    else if a.toNat ≤ 0x7FFF then .rdRomx a
    else if a.toNat ≤ 0x9FFF then .rdGap8 a
    else if a.toNat ≤ 0xBFFF then .rdXram a
    else if a.toNat ≤ 0xDFFF then .rdWram a
    else if a.toNat ≤ 0xFDFF then .rdEcho a
    else if a.toNat ≤ 0xFEFF then .rdGapfe a
    else if a.toNat ≤ 0xFF7F then .rdIo a
    else if a.toNat ≤ 0xFFFE then .rdHram a
    else .rdIe := by
  split_ifs
  case neg =>
    have ha : a = 0xFFFF#16 := BitVec.eq_of_toNat_eq (show a.toNat = 0xFFFF by omega)
    exact decodeRead_of_port (ctx := .atReset) (by rw [ha]; rfl) rfl rfl
  all_goals exact decodeRead_of_port (ctx := .atReset) rfl (inWindow_iff.2 (by omega)) rfl

end Sys2Proof

namespace Sys2Proof.Machine

/-- R102: a read carries no data, so its word is the address alone. -/
theorem rdWord_eq (a : Word) : rdWord a = a.setWidth 32 <<< 8 := by
  rw [rdWord, Port.word, BitVec.setWidth_zero, BitVec.or_zero]

/-! ### Cells -/

section
variable {cfg : Config} {i : Nat}

theorem romByte_inside (h : i < cfg.romLen) : romByte cfg i = Memory.read cfg.rom i := by
  rw [romByte, inRange, decide_eq_true h, if_pos rfl]

/-- D11: an index beyond the image is not wrapped. -/
theorem romByte_beyond (h : cfg.romLen ≤ i) : romByte cfg i = openBus := by
  rw [romByte, inRange, decide_eq_false (Nat.not_lt.2 h)]
  rfl

end

section
variable {a : Word}

/-- R73, 0xC000 to 0xDFFF. -/
theorem wramIndex_wram (h : 0xC000 ≤ a.toNat) (h' : a.toNat ≤ 0xDFFF) : wramIndex a = a.toNat - 0xC000 := by
  rw [wramIndex_spec h, if_pos (by omega)]

/-- R73, the mirror: the cell of the address 0x2000 below. -/
theorem wramIndex_echo (h : 0xE000 ≤ a.toNat) : wramIndex a = a.toNat - 0x2000 - 0xC000 := by
  rw [wramIndex_spec (by omega), if_neg (by omega)]
  omega

theorem toNat_add_0x2000 (h : a.toNat ≤ 0xDDFF) : (a + 0x2000#16).toNat = a.toNat + 0x2000 := by
  rw [BitVec.toNat_add, BitVec.toNat_ofNat]
  omega

/-- R73, R188: an address and the one 0x2000 above it translate to one cell. -/
theorem wramIndex_add (h : 0xC000 ≤ a.toNat) (h' : a.toNat ≤ 0xDDFF) :
    wramIndex (a + 0x2000#16) = wramIndex a := by
  have hadd := toNat_add_0x2000 h'
  rw [wramIndex_echo (by omega), wramIndex_wram h (by omega), hadd]
  omega

end

/-- A store inside a canonical buffer sets its cell and no other. -/
theorem Memory.store_oneCell {m : Memory} {len i : Nat} (v : Byte) (hm : Memory.fits len m = true) (hi : i < len) :
    Memory.read (Memory.store len m i v) i = v ∧
      ∀ j, j ≠ i → Memory.read (Memory.store len m i v) j = Memory.read m j :=
  ⟨Memory.read_store_same v hm hi, fun _ hj => Memory.read_store_other v hj.symm⟩

/-! ### A write and the read after it -/

/-- R78: the read sees the address space that the write before it left. -/
theorem results_write_read (s : State) (a b : Word) (v : Byte) : results [wrWord a v, rdWord b] s =
    [.nothing, .bus (memRead s.cfg (memWrite s.cfg s.bus a v) b)] := by
  rw [results_cons_of_step _ (step_wrWord s a v), results_cons_of_step _ (step_rdWord _ b)]
  rfl

theorem results_write_read_of_memRead {s : State} {a b : Word} {v x : Byte}
    (h : memRead s.cfg (memWrite s.cfg s.bus a v) b = x) :
    results [wrWord a v, rdWord b] s = [.nothing, .bus x] := by
  rw [results_write_read, h]

/-- R188: two addresses of the work RAM windows that translate to one cell share the byte. -/
theorem memRead_memWrite_sameCell {cfg : Config} {sp : AddressSpace} {a b : Word} (v : Byte)
    (hsp : sp.wf cfg = true) (ha : 0xC000 ≤ a.toNat) (ha' : a.toNat ≤ 0xFDFF) (hb : 0xC000 ≤ b.toNat)
    (hb' : b.toNat ≤ 0xFDFF) (hcell : wramIndex b = wramIndex a) :
    memRead cfg (memWrite cfg sp a v) b = v := by
  obtain ⟨-, -, hwram, -⟩ := AddressSpace.wf_iff.1 hsp
  rw [memWrite_workRam _ _ v ha ha', memRead_workRam _ _ hb hb', AddressSpace.readWram, hcell]
  exact Memory.read_store_same v hwram (wramIndex_lt a)

/-! ### External RAM and the control writes (R190) -/

/-- R181, R243: a run of control writes changes the controller alone. -/
theorem runWords_controls (controls : List (Word × Byte)) (s : State) (h : ∀ c ∈ controls, c.1.toNat ≤ 0x7FFF) :
    ∃ m r, runWords (controls.map fun c => wrWord c.1 c.2) s =
      .next { s with bus := { s.bus with mbc := m }, reply := r } := by
  induction controls generalizing s with
  | nil => exact ⟨s.bus.mbc, s.reply, rfl⟩
  | cons c rest ih =>
    obtain ⟨hc, hrest⟩ := List.forall_mem_cons.1 h
    obtain ⟨m, r, hr⟩ := ih (s.toMbc (s.bus.mbc.control s.cfg.variant c.1 c.2)) hrest
    exact ⟨m, r, (runWords_cons_of_step _ (step_wrWord_control s c.2 hc)).trans hr⟩

/-- R71, R173: of the controller a read of external RAM sees the enable and the RAM bank alone. -/
theorem AddressSpace.readXram_congr (cfg : Config) {sp sp' : AddressSpace} (a : Word) (hxram : sp'.xram = sp.xram)
    (henabled : sp'.mbc.ramEnabled = sp.mbc.ramEnabled) (hbank : sp'.mbc.ramBank = sp.mbc.ramBank) :
    sp'.readXram cfg a = sp.readXram cfg a := by
  have hindex : xramIndex sp'.mbc a = xramIndex sp.mbc a := by rw [xramIndex, xramIndex, hbank]
  rw [readXram, readXram, hindex, henabled, hxram]

/-! ### The obligations -/

/-- Settles O20: the index of the ROM0 window is the address, which is inside the image or beyond it. -/
theorem rom0ReadIsFixedBank : Obligations.Rom0ReadIsFixedBank := by
  intro a s h
  refine ⟨decodePort_port (.rdRom0 a) _ (inWindow_iff.2 (window_rom0 h)) rfl, fun hin => ?_, fun hout => ?_⟩
  · exact congrArg (fun b => Host.Outcome.next (s.answer (.bus b))) (romByte_inside hin)
  · exact congrArg (fun b => Host.Outcome.next (s.answer (.bus b))) (romByte_beyond hout)

/-- Settles O23: both windows read the cell of `wramIndex`; an operation of the mirror is well formed only up to
0xFDFF. -/
theorem wramAndEchoReadSameCells : Obligations.WramAndEchoReadSameCells := by
  intro a s
  refine ⟨fun h => ?_, fun h h' => ?_, fun h b hd => ?_⟩
  · obtain ⟨hlo, hhi⟩ := window_wram h
    refine ⟨decodePort_port (.rdWram a) _ (inWindow_iff.2 ⟨hlo, hhi⟩) rfl, by omega, ?_⟩
    rw [← wramIndex_wram hlo hhi]
    rfl
  · have hlo := window_echo h
    refine ⟨decodePort_port (.rdEcho a) _ (inWindow_iff.2 ⟨hlo, h'⟩) rfl, ?_⟩
    rw [← wramIndex_echo hlo]
    rfl
  · obtain ⟨hwf, hport⟩ := wf_of_decodePort_read hd
    cases hport
    obtain ⟨-, hhi⟩ := inWindow_iff.1 hwf
    omega

/-- Settles O24: the index is the distance from 0xFF80; an operation of scratch RAM is well formed only from 0xFF80 to
0xFFFE. -/
theorem hramAndIeRead : Obligations.HramAndIeRead := by
  intro a s
  refine ⟨fun h hie => ?_, fun h b hd => ?_, rfl, rfl, rfl⟩
  · obtain ⟨hlo, hhi⟩ := window_hram h hie
    refine ⟨decodePort_port (.rdHram a) _ (inWindow_iff.2 ⟨hlo, hhi⟩) rfl, by omega, ?_⟩
    rw [← hramIndex_eq hlo]
    rfl
  · obtain ⟨hwf, hport⟩ := wf_of_decodePort_read hd
    cases hport
    obtain ⟨hlo, hhi⟩ := inWindow_iff.1 hwf
    obtain h | rfl := h
    · omega
    · exact absurd hhi (by decide)

/-- Settles O25: each fallback range decodes to its own operation, which answers the open bus from every state. -/
theorem fallbackReadsAreOpenBus : Obligations.FallbackReadsAreOpenBus := by
  intro a s
  refine ⟨fun h => ⟨?_, rfl⟩, fun h => ⟨?_, rfl⟩, fun h => ⟨?_, rfl⟩⟩
  · exact decodePort_port (.rdGap8 a) _ (inWindow_iff.2 (window_gap8 h)) rfl
  · exact decodePort_port (.rdGapfe a) _ (inWindow_iff.2 (window_gapfe h)) rfl
  · exact decodePort_port (.rdIo a) _ (inWindow_iff.2 (window_io h)) rfl

/-- Settles O26: each branch of the rule names an operation that is well formed there, so it is the one the address
decodes to; the step is `memRead` whatever the operation. -/
theorem readDispatchFollowsAddress : Obligations.ReadDispatchFollowsAddress :=
  fun a ctx => ⟨rdWord_eq a, (decode_rdWord ctx a).trans (congrArg Except.ok (decodeRead_eq a)),
    fun s => step_rdWord s a⟩

/-- Settles O28: either window stores at `wramIndex`, which is always inside work RAM; the invariant keeps the buffer
canonical, so that the store is read back. -/
theorem wramAndEchoWriteOneCell : Obligations.WramAndEchoWriteOneCell := by
  intro a v s hs
  obtain ⟨-, -, hbus⟩ := State.inv_iff.1 hs
  obtain ⟨-, -, hwram, -⟩ := AddressSpace.wf_iff.1 hbus
  refine ⟨fun h => ?_, fun h h' => ?_⟩
  · obtain ⟨hlo, hhi⟩ := window_wram h
    refine ⟨decodePort_port (.wrWram a v) _ (inWindow_iff.2 ⟨hlo, hhi⟩) rfl, _, rfl, ?_⟩
    rw [← wramIndex_wram hlo hhi]
    exact Memory.store_oneCell v hwram (wramIndex_lt a)
  · have hlo := window_echo h
    refine ⟨decodePort_port (.wrEcho a v) _ (inWindow_iff.2 ⟨hlo, h'⟩) rfl, _, rfl, ?_⟩
    rw [← wramIndex_echo hlo]
    exact Memory.store_oneCell v hwram (wramIndex_lt a)

/-- Settles O29: scratch RAM stores at the distance from 0xFF80; 0xFFFF is the byte `ie`. -/
theorem hramAndIeWrite : Obligations.HramAndIeWrite := by
  intro a v s hs
  obtain ⟨-, -, hbus⟩ := State.inv_iff.1 hs
  obtain ⟨-, -, -, hhram⟩ := AddressSpace.wf_iff.1 hbus
  refine ⟨fun h hie => ?_, rfl, rfl, rfl⟩
  obtain ⟨hlo, hhi⟩ := window_hram h hie
  refine ⟨decodePort_port (.wrHram a v) _ (inWindow_iff.2 ⟨hlo, hhi⟩) rfl, _, rfl, ?_⟩
  rw [← hramIndex_eq hlo]
  exact Memory.store_oneCell v hhram (hramIndex_lt hlo hhi)

/-- Settles O31: each fallback range decodes to its own no-op, and `memRead` answers the open bus there. -/
theorem fallbackWritesAreNoOps : Obligations.FallbackWritesAreNoOps := by
  intro a v s
  refine ⟨fun h => ?_, fun h => ?_, fun h => ?_⟩
  · obtain ⟨hlo, hhi⟩ := window_gap8 h
    exact ⟨decodePort_port (.wrGap8 a v) _ (inWindow_iff.2 ⟨hlo, hhi⟩) rfl, rfl, memRead_gap8 _ _ hlo hhi⟩
  · obtain ⟨hlo, hhi⟩ := window_gapfe h
    exact ⟨decodePort_port (.wrGapfe a v) _ (inWindow_iff.2 ⟨hlo, hhi⟩) rfl, rfl, memRead_gapfe _ _ hlo hhi⟩
  · obtain ⟨hlo, hhi⟩ := window_io h
    exact ⟨decodePort_port (.wrIo a v) _ (inWindow_iff.2 ⟨hlo, hhi⟩) rfl, rfl, memRead_io _ _ hlo hhi⟩

/-- Settles O35: the two addresses lie in the work RAM windows and translate to one cell, in either direction. -/
theorem mirrorLaw : Obligations.MirrorLaw := by
  rintro a _ v s hs ha ha' rfl
  obtain ⟨-, -, hbus⟩ := State.inv_iff.1 hs
  have hcell := wramIndex_add ha ha'
  have hadd := toNat_add_0x2000 ha'
  exact ⟨results_write_read_of_memRead (memRead_memWrite_sameCell v hbus ha (by omega) (by omega) (by omega) hcell),
    results_write_read_of_memRead
      (memRead_memWrite_sameCell v hbus (by omega) (by omega) ha (by omega) hcell.symm)⟩

/-- Settles O36: storage reads back the byte written, external RAM as its cell holds it. -/
theorem storageReadsBackWrite : Obligations.StorageReadsBackWrite := by
  intro a v s hs
  obtain ⟨-, -, hbus⟩ := State.inv_iff.1 hs
  refine ⟨fun h => ?_, fun h h' he hlt => ?_⟩
  · exact results_write_read_of_memRead (memRead_memWrite_storage hbus v h)
  · rw [← xramValue_eq]
    rw [← xramIndex_eq s.bus.mbc h] at hlt
    exact results_write_read_of_memRead (memRead_memWrite_xram hbus v h h' he hlt)

/-- Settles O49: the control writes leave the buffer as it was, and a read of it sees no more of the controller than the
enable and the RAM bank. -/
theorem xramSurvivesControlWrites : Obligations.XramSurvivesControlWrites := by
  intro controls a s t hcontrols h h' ht
  obtain ⟨m, r, hrun⟩ := runWords_controls controls s hcontrols
  rw [hrun] at ht
  cases ht
  refine ⟨rfl, fun henabled hbank => ?_⟩
  rw [memRead_xram _ _ h h', memRead_xram _ _ h h']
  exact AddressSpace.readXram_congr s.cfg a rfl henabled hbank

end Sys2Proof.Machine
end

section
/-! PROOFS. The bank controllers (42_mbc.md): what each variant's control writes do (O38, O40, O42, O44, O45), that a
control write changes one register and one field of it (O46), and which controller values a run can reach (O47). -/

namespace Sys2Proof

/-! ### Windows of the control range (R109) -/

/-- The address window of a field at the top of the address. -/
theorem inWindow_of_topField {a : Word} {lo w k : Nat} (h : a.extractLsb' lo w = BitVec.ofNat w k)
    (hlen : lo + w = 16) (hk : k < 2 ^ w) : inWindow (k * 2 ^ lo) (k * 2 ^ lo + (2 ^ lo - 1)) a = true := by
  have hfield : a.toNat / 2 ^ lo < 2 ^ w := by
    rw [Nat.div_lt_iff_lt_mul (Nat.two_pow_pos lo), ← Nat.pow_add, Nat.add_comm, hlen]
    exact a.isLt
  rw [extract_eq_ofNat_iff, Nat.mod_eq_of_lt hfield, Nat.mod_eq_of_lt hk] at h
  have hdiv := Nat.div_add_mod' a.toNat (2 ^ lo)
  have hmod := Nat.mod_lt a.toNat (Nat.two_pow_pos lo)
  rw [h] at hdiv
  exact inWindow_iff.2 (by omega)

end Sys2Proof

namespace Sys2Proof.Machine

/-! ### The two fields of a split bank number -/

section
variable (m : BankController) (v : Byte)

/-- R201: bits 6:5 are kept; the register's two bits above them do not exist under MBC1. -/
theorem mbc1RomLow_div (h : m.romBank.toNat ≤ 0x7F) :
    (m.mbc1RomLow v).romBank.toNat / 32 = m.romBank.toNat / 32 := by
  obtain ⟨hr, -⟩ := mbc1RomLow_spec m v
  split at hr <;> omega

/-- R202: bits 4:0 are kept. -/
theorem mbc1RomHigh_fields : (m.mbc1RomHigh v).romBank.toNat % 32 = m.romBank.toNat % 32 ∧
    (m.mbc1RomHigh v).romBank.toNat / 32 = v.toNat % 4 := by
  obtain ⟨hr, -⟩ := mbc1RomHigh_spec m v
  omega

/-- R231: bit 8 is kept. -/
theorem mbc5RomLow_fields : (m.mbc5RomLow v).romBank.toNat / 256 = m.romBank.toNat / 256 ∧
    (m.mbc5RomLow v).romBank.toNat % 256 = v.toNat := by
  have hv := v.isLt
  obtain ⟨hr, -⟩ := mbc5RomLow_spec m v
  omega

/-- R232: bits 7:0 are kept. -/
theorem mbc5RomHigh_fields : (m.mbc5RomHigh v).romBank.toNat % 256 = m.romBank.toNat % 256 ∧
    (m.mbc5RomHigh v).romBank.toNat / 256 = v.toNat % 2 := by
  obtain ⟨hr, -⟩ := mbc5RomHigh_spec m v
  omega

end

/-! ### The legal values of each variant (R242) -/

section
variable {m : BankController}

theorem legal_mbc1_iff : m.legal .mbc1 = true ↔
    m.romBank.toNat ≤ 0x7F ∧ m.romBank.toNat % 32 ≠ 0 ∧ m.ramBank.toNat ≤ 3 := by
  simp only [BankController.legal, Bool.and_eq_true, decide_eq_true_eq, and_assoc]

theorem legal_mbc2_iff : m.legal .mbc2 = true ↔
    m.romBank.toNat ≤ 0x0F ∧ m.ramBank = 0#4 ∧ m.bankMode = .rom := by
  simp only [BankController.legal, Bool.and_eq_true, decide_eq_true_eq, and_assoc]

theorem legal_mbc3_iff : m.legal .mbc3 = true ↔
    1 ≤ m.romBank.toNat ∧ m.romBank.toNat ≤ 0x7F ∧ m.ramBank.toNat ≤ 3 ∧ m.bankMode = .rom := by
  simp only [BankController.legal, Bool.and_eq_true, decide_eq_true_eq, and_assoc]

theorem legal_mbc5_iff : m.legal .mbc5 = true ↔ m.bankMode = .rom := by
  simp only [BankController.legal, decide_eq_true_eq]

/-- R202: the low five bits, which the upper write keeps, are not 0. -/
theorem mbc1RomHigh_ne_zero (v : Byte) (h : m.legal .mbc1 = true) : (m.mbc1RomHigh v).romBank.toNat ≠ 0 := by
  obtain ⟨-, hlow, -⟩ := legal_mbc1_iff.1 h
  obtain ⟨hmod, -⟩ := mbc1RomHigh_fields m v
  omega

end

/-! ### Every reachable controller value is legal (R241)

The configuration may be any, so the invariant `State.Inv`, which asks for well-formed images, is not at hand. -/

/-- R180, R181: a bus write reaches the controller below 0x8000 alone. -/
theorem memWrite_mbc (cfg : Config) (sp : AddressSpace) (a : Word) (v : Byte) : (memWrite cfg sp a v).mbc =
    if a.toNat ≤ 0x7FFF then sp.mbc.control cfg.variant a v else sp.mbc := by
  unfold memWrite
  split_ifs
  case pos => rfl
  all_goals simp

theorem memWrite_legal {cfg : Config} {sp : AddressSpace} (a : Word) (v : Byte)
    (h : sp.mbc.legal cfg.variant = true) : (memWrite cfg sp a v).mbc.legal cfg.variant = true := by
  rw [memWrite_mbc]
  split_ifs
  · exact control_legal a v h
  · exact h

theorem powerup_legal {cfg : Config} (writes : List (Word × Byte)) {sp : AddressSpace}
    (h : sp.mbc.legal cfg.variant = true) : (sp.powerup cfg writes).mbc.legal cfg.variant = true := by
  induction writes generalizing sp with
  | nil => exact h
  | cons w rest ih => exact ih (memWrite_legal w.1 w.2 h)

/-- R37, R241: a step keeps the controller legal, because a presented word is decoded in the variant's own context. -/
theorem step_legal {s t : State} (hs : s.bus.mbc.legal s.cfg.variant = true) (h : step s = .next t) :
    t.bus.mbc.legal s.cfg.variant = true := by
  obtain ⟨-, rfl⟩ | ⟨w, rest, i, -, hd, hx⟩ := step_next_cases h
  · exact hs
  obtain ⟨a, rfl⟩ | ⟨a, v, rfl⟩ | hi := decode_ok_cases hd
  · cases exec_next_unique hx (exec_decodeRead { s with pending := rest } a)
    exact hs
  · cases exec_next_unique hx (exec_decodeWrite { s with pending := rest } a v)
    exact memWrite_legal a v hs
  · rw [exec_next_unique hx (exec_regOp_of_rf_eq hi hx rfl)]
    exact hs

theorem Reachable.legal {cfg : Config} {s : State} (h : Reachable cfg s) : s.bus.mbc.legal cfg.variant = true := by
  induction h with
  | reset => exact powerup_legal cfg.powerupWrites (atReset_legal cfg.variant)
  | @transact s _ t hs hstep ih =>
    obtain rfl := hs.cfg_eq
    exact step_legal (s := s.present t) ih hstep

/-! ### Every legal controller value is reachable

Each register of the controller can be brought to each of its values by one or two control writes that leave the others
alone. -/

/-- Some run of the block with configuration `cfg` leaves its controller at `m`. -/
def ReachableController (cfg : Config) (m : BankController) : Prop := ∃ s, Reachable cfg s ∧ s.bus.mbc = m

/-- D7: a run starts somewhere, with a legal controller whatever the power-up table writes. -/
theorem ReachableController.start (cfg : Config) :
    ∃ m, ReachableController cfg m ∧ m.legal cfg.variant = true :=
  ⟨_, ⟨_, .reset, rfl⟩, Reachable.legal .reset⟩

theorem ReachableController.control {cfg : Config} {variant : Variant} {m : BankController}
    (hm : ReachableController cfg m) (hv : cfg.variant = variant) (a : Word) (v : Byte) (ha : a.toNat ≤ 0x7FFF) :
    ReachableController cfg (m.control variant a v) := by
  obtain ⟨s, hs, rfl⟩ := hm
  obtain rfl := hs.cfg_eq
  subst hv
  exact ⟨_, .transact (wrWord a v) hs (step_wrWord_control s v ha), rfl⟩

/-- An update of the ROM bank alone is known by the number it leaves. -/
theorem withRomBank_eq {m m' : BankController} {r : BitVec 9} (hr : m'.romBank.toNat = r.toNat)
    (hm : m' = { m with romBank := m'.romBank }) : m' = { m with romBank := r } := by
  rw [← BitVec.eq_of_toNat_eq hr]
  exact hm

/-- An update of the RAM bank alone is known by the number it leaves. -/
theorem withRamBank_eq {m m' : BankController} {r : BitVec 4} (hr : m'.ramBank.toNat = r.toNat)
    (hm : m' = { m with ramBank := m'.ramBank }) : m' = { m with ramBank := r } := by
  rw [← BitVec.eq_of_toNat_eq hr]
  exact hm

/-- R200: 0x0A enables, 0x00 disables. -/
theorem ramEnable_bool (m : BankController) (e : Bool) :
    m.ramEnable (if e then 0x0A#8 else 0x00#8) = { m with ramEnabled := e } := by
  cases e <;> rfl

/-- R203, R222: a RAM bank of two bits goes out as itself. -/
theorem ramBankTwoBits_bank (m : BankController) {r : BitVec 4} (h : r.toNat ≤ 3) :
    m.ramBankTwoBits (r.setWidth 8) = { m with ramBank := r } := by
  obtain ⟨hr, heq⟩ := ramBankTwoBits_spec m (r.setWidth 8)
  refine withRamBank_eq ?_ heq
  rw [hr, BitVec.toNat_setWidth]
  omega

/-- R233: a RAM bank of four bits goes out as itself. -/
theorem ramBankFourBits_bank (m : BankController) (r : BitVec 4) :
    m.ramBankFourBits (r.setWidth 8) = { m with ramBank := r } := by
  have hlt := r.isLt
  obtain ⟨hr, heq⟩ := ramBankFourBits_spec m (r.setWidth 8)
  refine withRamBank_eq ?_ heq
  rw [hr, BitVec.toNat_setWidth]
  omega

/-- R203: the write to 0x4000 in Ram mode. -/
theorem control_mbc1_ramBank {m : BankController} (v : Byte) (h : m.bankMode = .ram) :
    m.control .mbc1 0x4000#16 v = m.ramBankTwoBits v := by
  show (match m.bankMode with | .rom => m.mbc1RomHigh v | .ram => m.ramBankTwoBits v) = m.ramBankTwoBits v
  rw [h]

section
variable {cfg : Config} {m : BankController} (hm : ReachableController cfg m)
include hm

/-- R200: MBC1, MBC3 and MBC5 enable by value. -/
theorem ReachableController.enable_byValue (hv : cfg.variant ≠ .mbc2) (e : Bool) :
    ReachableController cfg { m with ramEnabled := e } := by
  rw [← ramEnable_bool m e]
  cases hvar : cfg.variant with
  | mbc2 => exact absurd hvar hv
  | mbc1 | mbc3 | mbc5 => exact hm.control hvar 0x0000#16 _ (by decide)

/-- R210: MBC2 toggles, so no write or one. -/
theorem ReachableController.enable_mbc2 (hv : cfg.variant = .mbc2) (e : Bool) :
    ReachableController cfg { m with ramEnabled := e } := by
  obtain rfl | he := Bool.eq_or_eq_not e m.ramEnabled
  · exact hm
  · rw [he]
    exact hm.control hv 0x0000#16 0x00#8 (by decide)

/-- R204, D13. -/
theorem ReachableController.mode_mbc1 (hv : cfg.variant = .mbc1) (k : BankMode) :
    ReachableController cfg { m with bankMode := k } := by
  cases k with
  | rom => exact hm.control hv 0x6000#16 0x00#8 (by decide)
  | ram => exact hm.control hv 0x6000#16 0x01#8 (by decide)

/-- R201, R202: in Rom mode the two writes set the whole ROM bank. -/
theorem ReachableController.romBank_mbc1 (hv : cfg.variant = .mbc1) (hmode : m.bankMode = .rom) {r : BitVec 9}
    (hr : r.toNat ≤ 0x7F) (hr0 : r.toNat % 32 ≠ 0) : ReachableController cfg { m with romBank := r } := by
  have hbank := mbc1RomHigh_mbc1RomLow_bank m (show r.toNat < 0x80 by omega)
  rw [if_neg hr0, Nat.div_add_mod'] at hbank
  rw [← withRomBank_eq (m := m) hbank rfl, ← control_mbc1_high (m.mbc1RomLow _) _ hmode]
  exact (hm.control hv 0x2000#16 _ (by decide)).control hv 0x4000#16 _ (by decide)

/-- R203: in Ram mode. -/
theorem ReachableController.ramBank_mbc1 (hv : cfg.variant = .mbc1) (hmode : m.bankMode = .ram) {r : BitVec 4}
    (hr : r.toNat ≤ 3) : ReachableController cfg { m with ramBank := r } := by
  rw [← ramBankTwoBits_bank m hr, ← control_mbc1_ramBank _ hmode]
  exact hm.control hv 0x4000#16 _ (by decide)

/-- R212: address bit 8 is set. -/
theorem ReachableController.romBank_mbc2 (hv : cfg.variant = .mbc2) {r : BitVec 9} (hr : r.toNat ≤ 0x0F) :
    ReachableController cfg { m with romBank := r } := by
  rw [← withRomBank_eq (m := m) (mbc2Rom_bank m (show r.toNat < 0x10 by omega)) rfl]
  exact hm.control hv 0x2100#16 _ (by decide)

/-- R221. -/
theorem ReachableController.romBank_mbc3 (hv : cfg.variant = .mbc3) {r : BitVec 9} (hr : r.toNat ≤ 0x7F)
    (hr0 : 1 ≤ r.toNat) : ReachableController cfg { m with romBank := r } := by
  have hbank := mbc3Rom_bank m (show r.toNat < 0x80 by omega)
  rw [if_neg (by omega)] at hbank
  rw [← withRomBank_eq (m := m) hbank rfl]
  exact hm.control hv 0x2000#16 _ (by decide)

/-- R222. -/
theorem ReachableController.ramBank_mbc3 (hv : cfg.variant = .mbc3) {r : BitVec 4} (hr : r.toNat ≤ 3) :
    ReachableController cfg { m with ramBank := r } := by
  rw [← ramBankTwoBits_bank m hr]
  exact hm.control hv 0x4000#16 _ (by decide)

/-- R231, R232: the two writes set the whole ROM bank. -/
theorem ReachableController.romBank_mbc5 (hv : cfg.variant = .mbc5) (r : BitVec 9) :
    ReachableController cfg { m with romBank := r } := by
  rw [← withRomBank_eq (m := m) (mbc5RomHigh_mbc5RomLow_bank m r.isLt) rfl]
  exact (hm.control hv 0x2000#16 _ (by decide)).control hv 0x3000#16 _ (by decide)

/-- R233. -/
theorem ReachableController.ramBank_mbc5 (hv : cfg.variant = .mbc5) (r : BitVec 4) :
    ReachableController cfg { m with ramBank := r } := by
  rw [← ramBankFourBits_bank m r]
  exact hm.control hv 0x4000#16 _ (by decide)

end

section
variable {cfg : Config} {m : BankController} (hm : m.legal cfg.variant = true)
include hm

/-- The ROM bank is written in Rom mode, the RAM bank in Ram mode, and the mode is set last. -/
theorem reachableController_mbc1 (hv : cfg.variant = .mbc1) : ReachableController cfg m := by
  obtain ⟨m₀, h₀, -⟩ := ReachableController.start cfg
  rw [hv, legal_mbc1_iff] at hm
  obtain ⟨hrom, hrom0, hram⟩ := hm
  have h₁ := (h₀.mode_mbc1 hv .rom).romBank_mbc1 hv rfl hrom hrom0
  have h₂ := (h₁.mode_mbc1 hv .ram).ramBank_mbc1 hv rfl hram
  exact (h₂.enable_byValue (by rw [hv]; nofun) m.ramEnabled).mode_mbc1 hv m.bankMode

/-- No control write reaches the RAM bank or the mode; they stand at their reset values. -/
theorem reachableController_mbc2 (hv : cfg.variant = .mbc2) : ReachableController cfg m := by
  obtain ⟨m₀, h₀, hm₀⟩ := ReachableController.start cfg
  rw [hv, legal_mbc2_iff] at hm hm₀
  obtain ⟨hrom, hram, hmode⟩ := hm
  obtain ⟨-, hram₀, hmode₀⟩ := hm₀
  have h := (h₀.romBank_mbc2 hv hrom).enable_mbc2 hv m.ramEnabled
  rwa [hram₀, hmode₀, ← hram, ← hmode] at h

theorem reachableController_mbc3 (hv : cfg.variant = .mbc3) : ReachableController cfg m := by
  obtain ⟨m₀, h₀, hm₀⟩ := ReachableController.start cfg
  rw [hv, legal_mbc3_iff] at hm hm₀
  obtain ⟨hrom0, hrom, hram, hmode⟩ := hm
  obtain ⟨-, -, -, hmode₀⟩ := hm₀
  have h := ((h₀.romBank_mbc3 hv hrom hrom0).ramBank_mbc3 hv hram).enable_byValue (by rw [hv]; nofun) m.ramEnabled
  rwa [hmode₀, ← hmode] at h

theorem reachableController_mbc5 (hv : cfg.variant = .mbc5) : ReachableController cfg m := by
  obtain ⟨m₀, h₀, hm₀⟩ := ReachableController.start cfg
  rw [hv, legal_mbc5_iff] at hm hm₀
  have h := ((h₀.romBank_mbc5 hv m.romBank).ramBank_mbc5 hv m.ramBank).enable_byValue (by rw [hv]; nofun) m.ramEnabled
  rwa [hm₀, ← hm] at h

end

/-- R242: a run reaches exactly the legal controller values. -/
theorem reachableController_iff {cfg : Config} {m : BankController} :
    ReachableController cfg m ↔ m.legal cfg.variant = true := by
  constructor
  · rintro ⟨s, hs, rfl⟩
    exact hs.legal
  · intro hm
    cases hv : cfg.variant with
    | mbc1 => exact reachableController_mbc1 hm hv
    | mbc2 => exact reachableController_mbc2 hm hv
    | mbc3 => exact reachableController_mbc3 hm hv
    | mbc5 => exact reachableController_mbc5 hm hv

/-! ### The obligations -/

/-- Settles O38: each variant's operation is well formed in 0x0000 to 0x1FFF, and all three are one register update. -/
theorem ramEnableByLowNibble : Obligations.RamEnableByLowNibble := by
  intro a v s
  refine ⟨fun h => ?_, _, ramEnable_spec s.bus.mbc v, rfl, rfl, rfl⟩
  have hwin : inWindow 0x0000 0x1FFF a = true := inWindow_of_topField h rfl (by decide)
  exact ⟨fun hv => decodePort_port (.wrMbc1Ramen a v) _ hwin (decide_eq_true hv),
    fun hv => decodePort_port (.wrMbc3Ramen a v) _ hwin (decide_eq_true hv),
    fun hv => decodePort_port (.wrMbc5Ramen a v) _ hwin (decide_eq_true hv)⟩

/-- Settles O40: the mode decides which operation belongs to the context; each is the update of one register. -/
theorem mbc1UpperBitsByMode : Obligations.Mbc1UpperBitsByMode := by
  intro a v s hv h
  have hwin : inWindow 0x4000 0x5FFF a = true := inWindow_of_topField h rfl (by decide)
  refine ⟨fun hmode => ?_, fun hmode => ?_⟩
  · obtain ⟨hmod, hdiv⟩ := mbc1RomHigh_fields s.bus.mbc v
    refine ⟨decodePort_port (.wrMbc1Rombhi a v) _ hwin ?_, _, rfl, hmod, hdiv, fun hs => ?_⟩
    · exact Bool.and_eq_true_iff.2 ⟨decide_eq_true hv, decide_eq_true hmode⟩
    · obtain ⟨-, -, hbus⟩ := State.inv_iff.1 hs
      obtain ⟨hlegal, -⟩ := AddressSpace.wf_iff.1 hbus
      rw [hv] at hlegal
      exact mbc1RomHigh_ne_zero v hlegal
  · obtain ⟨hr, -⟩ := ramBankTwoBits_spec s.bus.mbc v
    refine ⟨decodePort_port (.wrMbc1Ramb a v) _ hwin ?_, _, rfl, hr⟩
    exact Bool.and_eq_true_iff.2 ⟨decide_eq_true hv, decide_eq_true hmode⟩

/-- Settles O42: address bit 8 makes the operation well formed; the toggle does not look at the value (D18). -/
theorem mbc2ToggleAndRomBank : Obligations.Mbc2ToggleAndRomBank := by
  intro a v s
  obtain ⟨hr, -⟩ := mbc2Rom_spec s.bus.mbc v
  refine ⟨fun hv h hbit => ?_, fun hv h hbit => ?_, rfl, _, rfl, hr⟩
  · have hwin : inWindow 0x0000 0x1FFF a = true := inWindow_of_topField h rfl (by decide)
    have hwf := Bool.and_eq_true_iff.2 ⟨hwin, congrArg not hbit⟩
    exact decodePort_port (.wrMbc2Ramtog a v) _ hwf (decide_eq_true hv)
  · have hwin : inWindow 0x2000 0x3FFF a = true := inWindow_of_topField h rfl (by decide)
    have hwf := Bool.and_eq_true_iff.2 ⟨hwin, hbit⟩
    exact decodePort_port (.wrMbc2Romb a v) _ hwf (decide_eq_true hv)

/-- Settles O44: the RAM bank is the two-bit update; the clock latch puts back the address space it found. -/
theorem mbc3RamBankAndClockLatch : Obligations.Mbc3RamBankAndClockLatch := by
  intro a v s
  obtain ⟨hr, -⟩ := ramBankTwoBits_spec s.bus.mbc v
  refine ⟨fun hv h => ?_, fun hv h => ?_, ⟨_, rfl, hr⟩, rfl⟩
  · have hwin : inWindow 0x4000 0x5FFF a = true := inWindow_of_topField h rfl (by decide)
    exact decodePort_port (.wrMbc3Ramb a v) _ hwin (decide_eq_true hv)
  · have hwin : inWindow 0x6000 0x7FFF a = true := inWindow_of_topField h rfl (by decide)
    exact decodePort_port (.wrMbc3Rtclatch a v) _ hwin (decide_eq_true hv)

/-- Settles O45: each range names its operation; the two ROM bank writes set one field each and keep the other. -/
theorem mbc5BankRegisters : Obligations.Mbc5BankRegisters := by
  intro a v s
  obtain ⟨hr, -⟩ := ramBankFourBits_spec s.bus.mbc v
  refine ⟨fun hv => ⟨fun h => ?_, fun h => ?_, fun h => ?_, fun h => ?_⟩,
    ⟨_, rfl, mbc5RomLow_fields s.bus.mbc v⟩, ⟨_, rfl, mbc5RomHigh_fields s.bus.mbc v⟩, ⟨_, rfl, hr⟩, rfl⟩
  · have hwin : inWindow 0x2000 0x2FFF a = true := inWindow_of_topField h rfl (by decide)
    exact decodePort_port (.wrMbc5Romblo a v) _ hwin (decide_eq_true hv)
  · have hwin : inWindow 0x3000 0x3FFF a = true := inWindow_of_topField h rfl (by decide)
    exact decodePort_port (.wrMbc5Rombhi a v) _ hwin (decide_eq_true hv)
  · have hwin : inWindow 0x4000 0x5FFF a = true := inWindow_of_topField h rfl (by decide)
    exact decodePort_port (.wrMbc5Ramb a v) _ hwin (decide_eq_true hv)
  · have hwin : inWindow 0x6000 0x7FFF a = true := inWindow_of_topField h rfl (by decide)
    exact decodePort_port (.wrMbc5Nop6 a v) _ hwin (decide_eq_true hv)

/-- Settles O46: the 19 operations by the register they write, a no-op putting one back; the split bank numbers by their
fields. -/
theorem controlWritesChangeControllerOnly : Obligations.ControlWritesChangeControllerOnly := by
  refine ⟨fun i s hi => ?_, fun a v s t => ⟨fun hr h => ?_, fun h => ?_, fun h => ?_, fun h => ?_⟩⟩
  · cases i with
    | wrMbc1Romb | wrMbc1Rombhi | wrMbc2Romb | wrMbc3Romb | wrMbc5Romblo | wrMbc5Rombhi =>
      exact ⟨_, rfl, .inl ⟨_, rfl⟩⟩
    | wrMbc1Ramb | wrMbc3Ramb | wrMbc5Ramb => exact ⟨_, rfl, .inr (.inl ⟨_, rfl⟩)⟩
    | wrMbc1Ramen | wrMbc2Ramtog | wrMbc3Ramen | wrMbc5Ramen => exact ⟨_, rfl, .inr (.inr (.inl ⟨_, rfl⟩))⟩
    | wrMbc1Mode => exact ⟨_, rfl, .inr (.inr (.inr ⟨_, rfl⟩))⟩
    | wrMbc2Nop0 | wrMbc2Nop2 | wrMbc2Nop4 | wrMbc3Rtclatch | wrMbc5Nop6 =>
      exact ⟨s.bus.mbc, rfl, .inl ⟨s.bus.mbc.romBank, rfl⟩⟩
    | _ => cases hi
  · cases h
    exact mbc1RomLow_div s.bus.mbc v hr
  · cases h
    exact (mbc1RomHigh_fields s.bus.mbc v).1
  · cases h
    exact (mbc5RomLow_fields s.bus.mbc v).1
  · cases h
    exact (mbc5RomHigh_fields s.bus.mbc v).1

/-- Settles O47: legality holds at reset and is kept by every step, and control writes bring each register to each of
its legal values. -/
theorem reachableControllerValues : Obligations.ReachableControllerValues := by
  intro cfg m
  refine reachableController_iff.trans ?_
  cases cfg.variant with
  | mbc1 => exact legal_mbc1_iff
  | mbc2 => exact legal_mbc2_iff
  | mbc3 => exact legal_mbc3_iff
  | mbc5 => exact legal_mbc5_iff

end Sys2Proof.Machine
end

section
/-! PROOFS. The transaction word (30_encoding.md sections 2 to 5): encoding and decoding are inverse between the
operations of a context and the words that spell them. The obligations O52, O53 and, on words written out, O56. -/

namespace Sys2Proof

/-- R102: a read carries no data, because a read word with data is rejected. -/
theorem data_of_splitWord_read {t : TWord} {a : Word} {d : Byte} (h : splitWord t = .ok (.bus false a d)) :
    d = 0#8 := by
  unfold splitWord splitReg splitBus at h
  split_ifs at h with _ _ _ _ hdata
  · cases h
  · injection h with h
    injection h with h24 _ hd
    rw [← hd]
    exact not_not.1 fun hne => hdata ⟨h24, hne⟩

/-- R102 to R111: what a port decodes to carries the port's signals, is well formed and belongs to the context. -/
theorem decodePort_ok {ctx : Context} {p : Port} {i : Instr} (h : decodePort ctx p = .ok i)
    (hread : ∀ a d, p = .bus false a d → d = 0#8) :
    i.port = p ∧ i.wf = true ∧ i.inContext ctx = true := by
  match p, h with
  | .bus false a d, rfl =>
    obtain ⟨hwf, hctx, hport⟩ := decodeRead_wf a ctx
    rw [hread a d rfl]
    exact ⟨hport, hwf, hctx⟩
  | .bus true a v, rfl =>
    obtain ⟨hwf, hctx, hport⟩ := decodeWrite_wf ctx a v
    exact ⟨hport, hwf, hctx⟩
  | .reg op sel imm, h =>
    obtain ⟨hport, hwf, hctx⟩ := decodeReg_ok h
    exact ⟨hport, hwf, hctx ctx⟩

/-- A word that decodes is the word of its operation: no bit is lost in its port's signals, nor in the operation. -/
theorem encode_of_decode_ok {ctx : Context} {t : TWord} {i : Instr} (h : decode ctx t = .ok i) :
    encode i = t ∧ i.wf = true ∧ i.inContext ctx = true := by
  unfold decode at h
  split at h
  · cases h
  · next p hp =>
    obtain ⟨hport, hwf, hctx⟩ := decodePort_ok h fun a d hpd => data_of_splitWord_read (hpd ▸ hp)
    refine ⟨?_, hwf, hctx⟩
    rw [encode, hport]
    exact word_of_splitWord hp

/-! ### The obligations -/

/-- Settles O52: the word splits back to the operation's port, which decodes to the operation. -/
theorem decodeEncodeRoundTrip : Obligations.DecodeEncodeRoundTrip :=
  fun _ _ => decode_encode

/-- Settles O53: splitting a word and decoding its port both keep every bit, and every answer of the decoder is an
operation of the context at an address of its window. -/
theorem encodeDecodeRoundTrip : Obligations.EncodeDecodeRoundTrip :=
  fun _ _ _ => encode_of_decode_ok

/-- Settles O56: the words and contexts are literals, on which the decoder computes. -/
theorem sampleWordsDecode : Obligations.SampleWordsDecode :=
  ⟨rfl, rfl, rfl, rfl, rfl, rfl, rfl, rfl, rfl, rfl, rfl, rfl⟩

end Sys2Proof
end

section
/-! PROOFS. Reset and the buffers (10_state.md): what the power-up table leaves of the controller (O2) and of the
buffers (O3), and that canonical buffers with the same contents are the same data (O60). -/

namespace Sys2Proof.Machine

/-! ### The power-up table (R282) -/

theorem AddressSpace.powerup_cons (cfg : Config) (sp : AddressSpace) (w : Word × Byte) (rest : List (Word × Byte)) :
    sp.powerup cfg (w :: rest) = (memWrite cfg sp w.1 w.2).powerup cfg rest := rfl

/-- R181: a table without control writes leaves the controller alone. -/
theorem powerup_mbc (cfg : Config) {writes : List (Word × Byte)} (sp : AddressSpace)
    (h : ∀ w ∈ writes, 0x8000 ≤ w.1.toNat) : (sp.powerup cfg writes).mbc = sp.mbc := by
  induction writes generalizing sp with
  | nil => rfl
  | cons w rest ih =>
    obtain ⟨hw, hrest⟩ := List.forall_mem_cons.1 h
    rw [AddressSpace.powerup_cons, ih _ hrest, memWrite_mbc, if_neg (by omega)]

/-- The last value a table has for 0xFFFF, or `ie` if it has none. -/
def lastIe (ie : Byte) (writes : List (Word × Byte)) : Byte :=
  (((writes.filter (fun w => w.1 = 0xFFFF#16)).map Prod.snd).getLast?).getD ie

theorem lastIe_cons_ie {ie : Byte} {w : Word × Byte} {writes : List (Word × Byte)} (h : w.1 = 0xFFFF#16) :
    lastIe ie (w :: writes) = lastIe w.2 writes := by
  simp only [lastIe, List.filter_cons, decide_eq_true h, if_true, List.map_cons, List.getLast?_cons, Option.getD_some]

theorem lastIe_cons_other {ie : Byte} {w : Word × Byte} {writes : List (Word × Byte)} (h : w.1 ≠ 0xFFFF#16) :
    lastIe ie (w :: writes) = lastIe ie writes := by
  simp only [lastIe, List.filter_cons, decide_eq_false h, Bool.false_eq_true, if_false]

/-- R186, R187: a table over the I/O range and 0xFFFF changes `ie` alone. -/
theorem powerup_io (cfg : Config) {writes : List (Word × Byte)} (sp : AddressSpace)
    (h : ∀ w ∈ writes, (0xFF00 ≤ w.1.toNat ∧ w.1.toNat ≤ 0xFF7F) ∨ w.1.toNat = 0xFFFF) :
    sp.powerup cfg writes = { sp with ie := lastIe sp.ie writes } := by
  induction writes generalizing sp with
  | nil => rfl
  | cons w rest ih =>
    obtain ⟨hw, hrest⟩ := List.forall_mem_cons.1 h
    rw [AddressSpace.powerup_cons, ih _ hrest]
    obtain ⟨hlo, hhi⟩ | hie := hw
    · have hne : w.1 ≠ 0xFFFF#16 := fun e => by simp [e] at hhi
      rw [memWrite_io cfg sp w.2 hlo hhi, lastIe_cons_other hne]
    · rw [memWrite_ie cfg sp w.2 hie.ge, lastIe_cons_ie (BitVec.eq_of_toNat_eq hie)]
      rfl

/-! ### Canonical buffers (log entry 6) -/

theorem Memory.wfFrom_cons_iff {lo a : Nat} {b : Byte} {rest : Memory} :
    Memory.wfFrom lo ((a, b) :: rest) = true ↔
      lo ≤ a ∧ b ≠ Memory.unlisted ∧ Memory.wfFrom (a + 1) rest = true := by
  simp only [wfFrom, Bool.and_eq_true, decide_eq_true_eq, bne_iff_ne, and_assoc]

theorem Memory.read_cons_same (a : Nat) (b : Byte) (rest : Memory) : Memory.read ((a, b) :: rest) a = b :=
  if_pos rfl

theorem Memory.read_cons_other {a i : Nat} (b : Byte) (rest : Memory) (h : a ≠ i) :
    Memory.read ((a, b) :: rest) i = Memory.read rest i :=
  if_neg h

/-- An entry shows at its index against a buffer whose entries all lie above. -/
theorem Memory.read_cons_ne_of_above {a : Nat} {b : Byte} {m : Memory} (rest : Memory) (hb : b ≠ Memory.unlisted)
    (hm : Memory.wfFrom (a + 1) m = true) : Memory.read ((a, b) :: rest) a ≠ Memory.read m a := by
  rwa [read_cons_same, read_of_lt hm (Nat.lt_succ_self a)]

/-- Two buffers that begin with the same entry and read alike have rests that read alike: neither rest lists the
entry's index. -/
theorem Memory.read_rest_eq {a : Nat} {b : Byte} {rest rest' : Memory} (hrest : Memory.wfFrom (a + 1) rest = true)
    (hrest' : Memory.wfFrom (a + 1) rest' = true)
    (h : ∀ i, Memory.read ((a, b) :: rest) i = Memory.read ((a, b) :: rest') i) (i : Nat) :
    Memory.read rest i = Memory.read rest' i := by
  by_cases hi : a = i
  · subst hi
    rw [read_of_lt hrest (Nat.lt_succ_self a), read_of_lt hrest' (Nat.lt_succ_self a)]
  · rw [← read_cons_other b rest hi, h i, read_cons_other b rest' hi]

/-- Two canonical buffers that read alike begin with the same entry, and so on to their ends. -/
theorem Memory.eq_of_read_eq {lo : Nat} {m m' : Memory} (hm : Memory.wfFrom lo m = true)
    (hm' : Memory.wfFrom lo m' = true) (h : ∀ i, Memory.read m i = Memory.read m' i) : m = m' := by
  induction m generalizing lo m' with
  | nil =>
    cases m' with
    | nil => rfl
    | cons c' rest' =>
      obtain ⟨a', b'⟩ := c'
      obtain ⟨-, hb', -⟩ := wfFrom_cons_iff.1 hm'
      exact absurd (h a').symm (read_cons_ne_of_above rest' hb' rfl)
  | cons c rest ih =>
    obtain ⟨a, b⟩ := c
    obtain ⟨-, hb, hrest⟩ := wfFrom_cons_iff.1 hm
    cases m' with
    | nil => exact absurd (h a) (read_cons_ne_of_above rest hb rfl)
    | cons c' rest' =>
      obtain ⟨a', b'⟩ := c'
      obtain ⟨-, hb', hrest'⟩ := wfFrom_cons_iff.1 hm'
      obtain hlt | rfl | hlt := Nat.lt_trichotomy a a'
      · exact absurd (h a) (read_cons_ne_of_above rest hb (wfFrom_cons_iff.2 ⟨hlt, hb', hrest'⟩))
      · have hbb : b = b' := by rw [← read_cons_same a b rest, h a, read_cons_same]
        subst hbb
        rw [ih hrest hrest' (read_rest_eq hrest hrest' h)]
      · exact absurd (h a').symm (read_cons_ne_of_above rest' hb' (wfFrom_cons_iff.2 ⟨hlt, hb, hrest⟩))

/-! ### The obligations -/

/-- Settles O2: the power-up writes touch neither RegisterFile nor, without a control write, the controller. -/
theorem resetSetsLatchesAndController : Obligations.ResetSetsLatchesAndController :=
  fun cfg h => ⟨rfl, rfl, rfl, powerup_mbc cfg (AddressSpace.atReset cfg) h⟩

/-- Settles O3: by induction over the table, a write of which is a no-op or sets `ie`. -/
theorem powerupIoWritesStoreNothing : Obligations.PowerupIoWritesStoreNothing := by
  intro cfg h
  have hbus : (State.resetOf cfg).bus = { AddressSpace.atReset cfg with ie := lastIe cfg.ieReset cfg.powerupWrites } :=
    powerup_io cfg (AddressSpace.atReset cfg) h
  rw [hbus]
  exact ⟨rfl, rfl, rfl, rfl⟩

/-- Settles O60: the smallest index that either list names shows in both. -/
theorem equalContentsAreEqualData : Obligations.EqualContentsAreEqualData :=
  fun _ _ => Memory.eq_of_read_eq

end Sys2Proof.Machine
end

section
/-! PROOFS. The register port (40_regfile_ops.md): the 8-bit registers and the views (O7, O8, O9), the steps of HL
(O11), the flag operations (O12, O13), and what changes F and SP (O16). -/

namespace Sys2Proof.Machine

/-! ### Views -/

/-- R23, D4: F keeps the high nibble. -/
theorem flagByte_toNat (v : Byte) : (flagByte v).toNat = v.toNat / 16 * 16 := by
  revert v; decide

/-- R133: a view written whole is read whole, but for the low nibble of F. -/
theorem RegisterFile.read16_write16_same (g : RegisterFile) (p : View16) (v : Word) :
    ((g.write16 p v).read16 p).toNat = if p = .af then v.toNat / 16 * 16 else v.toNat := by
  cases p with
  | af =>
    show (pairOf (highByte v) (flagByte (lowByte v))).toNat = v.toNat / 16 * 16
    rw [pairOf_toNat, highByte_toNat, flagByte_toNat, lowByte_toNat]
    omega
  | bc | de | hl => exact congrArg BitVec.toNat (pairOf_bytes v)
  | sp | pc => rfl

/-! ### The steps of HL -/

section
variable (g : RegisterFile)

theorem RegisterFile.read16_hl_toNat : (g.read16 .hl).toNat = g.h.toNat * 256 + g.l.toNat :=
  pairOf_toNat g.h g.l

/-- R135: only H and L can change. -/
theorem RegisterFile.incHl_frame : g.incHl = { g with h := g.incHl.h, l := g.incHl.l } := by
  unfold incHl; split <;> rfl

/-- R136: only H and L can change. -/
theorem RegisterFile.decHl_frame : g.decHl = { g with h := g.decHl.h, l := g.decHl.l } := by
  unfold decHl; split <;> rfl

end

/-! ### Flags, bit by bit -/

section
variable (f m : Byte)

/-- R137: the flags that are set in both. -/
theorem flagsTest_iff : flagsTest f m = true ↔ ∃ i, i < 8 ∧ f.getLsbD i = true ∧ m.getLsbD i = true := by
  rw [flagsTest, bne_iff_ne, Ne, BitVec.eq_of_getLsbD_eq_iff]
  simp

/-- R23: F's low nibble is 0, so the mask's low nibble selects nothing. -/
theorem flagsTest_of_low_nibbles (hf : f &&& 0x0F#8 = 0#8) (hm : m &&& 0xF0#8 = 0#8) : flagsTest f m = false := by
  have hlow : m &&& 0x0F#8 = m := by revert m; decide
  have hz : f &&& m = 0#8 := by rw [← hlow, BitVec.and_comm m, ← BitVec.and_assoc, hf, BitVec.zero_and]
  rw [flagsTest, hz]
  rfl

end

section
variable (f m : Byte) {i : Nat} (hi : i < 8)
include hi

/-- R23: bits 3:0 are stored as 0. -/
theorem flagByte_bit (v : Byte) : (flagByte v).getLsbD i = (decide (4 ≤ i) && v.getLsbD i) := by
  have hmask : (0xF0#8).getLsbD i = decide (4 ≤ i) := by revert i; decide
  rw [flagByte, BitVec.getLsbD_and, hmask, Bool.and_comm]

theorem flagsSet_bit : (flagsSet f m).getLsbD i = (decide (4 ≤ i) && (f.getLsbD i || m.getLsbD i)) := by
  rw [flagsSet, flagByte_bit hi, BitVec.getLsbD_or]

theorem flagsClear_bit : (flagsClear f m).getLsbD i = (decide (4 ≤ i) && (f.getLsbD i && !m.getLsbD i)) := by
  rw [flagsClear, flagByte_bit hi, BitVec.getLsbD_and, BitVec.getLsbD_not, decide_eq_true hi, Bool.true_and]

theorem flagsPut_bit (b : Bool) :
    (flagsPut f m b).getLsbD i = (decide (4 ≤ i) && (if m.getLsbD i then b else f.getLsbD i)) := by
  cases b with
  | true =>
    refine (flagsSet_bit f m hi).trans ?_
    cases m.getLsbD i <;> simp
  | false =>
    refine (flagsClear_bit f m hi).trans ?_
    cases m.getLsbD i <;> simp

end

theorem boolWord_cases (b : Bool) : boolWord b = 0#16 ∨ boolWord b = 1#16 := by
  cases b with
  | false => exact .inl rfl
  | true => exact .inr rfl

theorem boolWord_eq_one_iff {b : Bool} : boolWord b = 1#16 ↔ b = true := by
  cases b <;> decide

/-! ### F and SP (R145) -/

section
variable (g : RegisterFile)

theorem RegisterFile.write8_f_other {r : Reg8} (v : Byte) (h : r ≠ .f) : (g.write8 r v).f = g.f :=
  g.read8_write8_other v h

/-- The view AF is the only one that overlaps F. -/
theorem RegisterFile.write16_f_other {p : View16} (v : Word) (h : p ≠ .af) : (g.write16 p v).f = g.f := by
  cases p with
  | af => exact absurd rfl h
  | bc | de | hl | sp | pc => rfl

/-- The view SP is the only one that overlaps SP. -/
theorem RegisterFile.write16_sp_other {p : View16} (v : Word) (h : p ≠ .sp) : (g.write16 p v).sp = g.sp := by
  cases p with
  | sp => exact absurd rfl h
  | af | bc | de | hl | pc => rfl

end

section
variable {i : Instr} {s t : State} (h : exec i s = .next t)
include h

/-- R145: an operation that does not name F keeps it. -/
theorem exec_f (h8 : ∀ v, i ≠ .wr8 .f v) (h16 : ∀ v, i ≠ .wr16 .af v) (hset : ∀ m, i ≠ .fset m)
    (hclr : ∀ m, i ≠ .fclr m) (hput : ∀ m b, i ≠ .fput m b) : t.rf.f = s.rf.f := by
  cases i with
  | wr8 r v => cases h; exact s.rf.write8_f_other v fun hr => h8 v (hr ▸ rfl)
  | wr16 p v => cases h; exact s.rf.write16_f_other v fun hp => h16 v (hp ▸ rfl)
  | fset m => exact absurd rfl (hset m)
  | fclr m => exact absurd rfl (hclr m)
  | fput m b => exact absurd rfl (hput m b)
  | inchl => cases h; exact s.rf.incHl_f
  | dechl => cases h; exact s.rf.decHl_f
  | wrctl c b => cases h; exact s.rf.setLatch_f c b
  | _ => cases h; rfl

/-- R25, R145: an operation other than `WR16 SP` keeps SP. -/
theorem exec_sp (hw : ∀ v, i ≠ .wr16 .sp v) : t.rf.sp = s.rf.sp := by
  cases i with
  | wr8 r v => cases h; exact s.rf.write8_sp r v
  | wr16 p v => cases h; exact s.rf.write16_sp_other v fun hp => hw v (hp ▸ rfl)
  | inchl => cases h; exact s.rf.incHl_sp
  | dechl => cases h; exact s.rf.decHl_sp
  | wrctl c b => cases h; exact s.rf.setLatch_sp c b
  | _ => cases h; rfl

end

/-! ### The obligations -/

/-- Settles O7: a write is read back and leaves the other registers, SP, PC and the latches alone, by the laws of
`write8`. -/
theorem wr8WritesOneRegister : Obligations.Wr8WritesOneRegister :=
  fun r v s => ⟨_, rfl, s.rf.read8_write8_same r v, fun _ hq => s.rf.read8_write8_other v hq.symm,
    s.rf.write8_sp r v, s.rf.write8_pc r v, fun c => s.rf.write8_latch c r v⟩

/-- Settles O8: a pair is its halves concatenated, which in numbers is `pairOf_toNat`. -/
theorem rd16ConcatenatesHalves : Obligations.Rd16ConcatenatesHalves := by
  intro p s
  refine ⟨_, rfl, ?_⟩
  cases p with
  | af | bc | de | hl => exact pairOf_toNat _ _
  | sp | pc => rfl

/-- Settles O9: view by view, each half in numbers. -/
theorem wr16WritesBothHalves : Obligations.Wr16WritesBothHalves := by
  intro p v s
  refine ⟨_, rfl, ?_, s.rf.read16_write16_same p v⟩
  cases p with
  | af => exact ⟨highByte_toNat v, by rw [← lowByte_toNat]; exact flagByte_toNat _, rfl⟩
  | bc | de | hl => exact ⟨highByte_toNat v, lowByte_toNat v, rfl⟩
  | sp | pc => rfl

/-- Settles O11: the carry from L into H makes it the 16-bit step, and no register but H and L is touched. -/
theorem hlStepsAreSixteenBit : Obligations.HlStepsAreSixteenBit := by
  intro s
  have hinc := incHl_toNat s.rf
  have hdec := decHl_toNat s.rf
  simp only [RegisterFile.read16_hl_toNat] at hinc hdec
  exact ⟨⟨_, _, congrArg (fun g => Host.Outcome.next (s.toRegs g .nothing)) s.rf.incHl_frame, hinc⟩,
    ⟨_, _, congrArg (fun g => Host.Outcome.next (s.toRegs g .nothing)) s.rf.decHl_frame, hdec⟩⟩

/-- Settles O12: the result is the truth value of `flagsTest`, which looks for a common bit. -/
theorem ftestIsAnyFlagOfMask : Obligations.FtestIsAnyFlagOfMask := by
  intro m s
  refine ⟨_, rfl, boolWord_cases _, boolWord_eq_one_iff.trans (flagsTest_iff s.rf.f m), fun hs hm => ?_⟩
  obtain ⟨-, hrf, -⟩ := State.inv_iff.1 hs
  rw [flagsTest_of_low_nibbles s.rf.f m (RegisterFile.wf_iff.1 hrf) hm]
  rfl

/-- Settles O13: the flag algebra bit by bit, masked as every write into F is. -/
theorem flagWritersActBitwise : Obligations.FlagWritersActBitwise :=
  fun m b s => ⟨⟨_, rfl, fun _ => flagsSet_bit s.rf.f m⟩, ⟨_, rfl, fun _ => flagsClear_bit s.rf.f m⟩,
    ⟨_, rfl, fun _ hi => flagsPut_bit s.rf.f m hi b⟩⟩

/-- Settles O16: `WR16 SP` by its definition, all else by `exec_f` and `exec_sp`. -/
theorem onlyExplicitWritersChangeFAndSp : Obligations.OnlyExplicitWritersChangeFAndSp := by
  intro i s t h
  refine ⟨exec_f h, ?_⟩
  split
  · cases h; rfl
  · next hw => exact exec_sp h hw

end Sys2Proof.Machine
end

section
/-! PROOFS. The banked windows of the bus (41_bus_router.md): the ROMX window (O21) and the external RAM window, read
(O22) and written (O30). -/

namespace Sys2Proof.Machine

/-! ### What the operations of the banked windows answer and leave -/

section
variable {s : State} {a : Word}

theorem exec_rdRomx_of_romByte {b : Byte} (h : romByte s.cfg (romIndexX s.bus.mbc a) = b) :
    exec (.rdRomx a) s = .next (s.answer (.bus b)) := by
  rw [← h]; rfl

theorem exec_rdXram_of_readXram {b : Byte} (h : s.bus.readXram s.cfg a = b) :
    exec (.rdXram a) s = .next (s.answer (.bus b)) := by
  rw [← h]; rfl

theorem exec_wrXram_of_writeXram {v : Byte} {sp : AddressSpace} (h : s.bus.writeXram s.cfg a v = sp) :
    exec (.wrXram a v) s = .next (s.toBus sp) := by
  rw [← h]; rfl

end

/-! ### External RAM cells -/

section
variable {cfg : Config} {sp : AddressSpace} {a : Word}

/-- D11: an index beyond the buffer is not wrapped. -/
theorem AddressSpace.readXram_closed (h : sp.mbc.ramEnabled = false ∨ cfg.xramSize ≤ xramIndex sp.mbc a) :
    sp.readXram cfg a = openBus := by
  cases he : sp.mbc.ramEnabled with
  | false => rw [readXram, he, if_neg Bool.false_ne_true]
  | true =>
    have hlen : cfg.xramSize ≤ xramIndex sp.mbc a := h.resolve_left (by simp [he])
    rw [readXram, inRange, decide_eq_false (Nat.not_lt.2 hlen), if_neg Bool.false_ne_true, ite_self]

theorem AddressSpace.readXram_open (he : sp.mbc.ramEnabled = true) (hlt : xramIndex sp.mbc a < cfg.xramSize) :
    sp.readXram cfg a = Memory.read sp.xram (xramIndex sp.mbc a) := by
  rw [readXram, if_pos he, inRange, decide_eq_true hlt, if_pos rfl]

end

/-- R182: MBC2 cells hold four bits, in numbers. -/
theorem xramValue_toNat (variant : Variant) (v : Byte) :
    (xramValue variant v).toNat = if variant = .mbc2 then v.toNat % 16 else v.toNat := by
  cases variant with
  | mbc2 => exact low_nibble v
  | mbc1 | mbc3 | mbc5 => rfl

/-! ### The obligations -/

/-- Settles O21: the index is the natural number of R70, which is inside the image or beyond it. -/
theorem romxReadIsSelectedBank : Obligations.RomxReadIsSelectedBank := by
  intro a s h
  have hwin : inWindow 0x4000 0x7FFF a = true := inWindow_of_topField h rfl (by decide)
  obtain ⟨hlo, -⟩ := inWindow_iff.1 hwin
  rw [← romIndexX_eq s.bus.mbc hlo]
  exact ⟨decodePort_port (.rdRomx a) _ hwin rfl, fun hin => exec_rdRomx_of_romByte (romByte_inside hin),
    fun hout => exec_rdRomx_of_romByte (romByte_beyond hout)⟩

/-- Settles O22: disabled and out of range both read the open bus, and otherwise the cell is read whole. -/
theorem xramReadIsGated : Obligations.XramReadIsGated := by
  intro a s h
  have hwin : inWindow 0xA000 0xBFFF a = true := inWindow_of_topField h rfl (by decide)
  obtain ⟨hlo, -⟩ := inWindow_iff.1 hwin
  rw [← xramIndex_eq s.bus.mbc hlo]
  exact ⟨decodePort_port (.rdXram a) _ hwin rfl,
    fun hoff => exec_rdXram_of_readXram (AddressSpace.readXram_closed (.inl hoff)),
    fun hout => exec_rdXram_of_readXram (AddressSpace.readXram_closed (.inr hout)),
    fun hon hin => exec_rdXram_of_readXram (AddressSpace.readXram_open hon hin)⟩

/-- Settles O30: a discarded write puts back the address space it found; otherwise one cell of a canonical buffer is
set, to four bits under MBC2. -/
theorem xramWriteIsGatedAndMasked : Obligations.XramWriteIsGatedAndMasked := by
  intro a v s hs h
  obtain ⟨-, -, hbus⟩ := State.inv_iff.1 hs
  obtain ⟨-, hxram, -, -⟩ := AddressSpace.wf_iff.1 hbus
  have hwin : inWindow 0xA000 0xBFFF a = true := inWindow_of_topField h rfl (by decide)
  obtain ⟨hlo, -⟩ := inWindow_iff.1 hwin
  rw [← xramIndex_eq s.bus.mbc hlo]
  refine ⟨decodePort_port (.wrXram a v) _ hwin rfl, fun hoff => ?_, fun hout => ?_, fun hon hin => ?_⟩
  · exact exec_wrXram_of_writeXram (AddressSpace.writeXram_discarded v (.inl hoff))
  · exact exec_wrXram_of_writeXram (AddressSpace.writeXram_discarded v (.inr hout))
  · obtain ⟨hsame, hother⟩ := Memory.store_oneCell (xramValue s.cfg.variant v) hxram hin
    rw [← xramValue_toNat, ← hsame]
    exact ⟨_, exec_wrXram_of_writeXram (AddressSpace.writeXram_of_enabled v hon), rfl, hother⟩

end Sys2Proof.Machine
end

section
/-! PROOFS. The bank controllers of MBC1 and MBC3 (42_mbc.md sections 2 and 4): the bank-number writes (O39, O43) and
the mode write (O41). -/

namespace Sys2Proof.Machine

/-- R201, D10: bits 4:0 are the value's, the zero test being on these five alone. -/
theorem mbc1RomLow_mod (m : BankController) (v : Byte) :
    (m.mbc1RomLow v).romBank.toNat % 32 = if v.toNat % 32 = 0 then 1 else v.toNat % 32 := by
  obtain ⟨hr, -⟩ := mbc1RomLow_spec m v
  rw [hr]
  split <;> omega

/-! ### The obligations -/

/-- Settles O39: the write sets the lower field of the ROM bank and keeps the upper. -/
theorem mbc1RomBankLowBits : Obligations.Mbc1RomBankLowBits :=
  fun _ v s hr => ⟨_, rfl, mbc1RomLow_div s.bus.mbc v hr, mbc1RomLow_mod s.bus.mbc v⟩

/-- Settles O41: the mode write is `selectMode`, which looks at bit 0 alone. -/
theorem mbc1ModeByBitZero : Obligations.Mbc1ModeByBitZero :=
  fun _ v s => congrArg (fun m => Host.Outcome.next (s.toMbc m)) (selectMode_spec s.bus.mbc v)

/-- Settles O43: the write is `mbc3Rom`, which sets the ROM bank whole. -/
theorem mbc3RomBankCoercesZero : Obligations.Mbc3RomBankCoercesZero := by
  intro a v s
  obtain ⟨hr, -⟩ := mbc3Rom_spec s.bus.mbc v
  exact ⟨_, rfl, hr⟩

end Sys2Proof.Machine
end
